-- ==== Sys2Proof/Word.lean ====
section
/-! DEFINITION. The word types of the machine: bytes, 16-bit words, register and key numbers (R6, 00_scope.md). -/

namespace Sys2Proof

/-- An 8-bit value: a register, a timer, a byte of memory. -/
abbrev Byte := BitVec 8

/-- A 16-bit value: PC, I, a stack entry, an instruction word. -/
abbrev Word := BitVec 16

/-- A register number 0x0 to 0xF (R20). -/
abbrev Reg := Fin 16

/-- VF, the register that doubles as the flag (R21). -/
abbrev vf : Reg := 15

/-- A key code 0x0 to 0xF (R6, R190). -/
abbrev KeyCode := Fin 16

/-- FONT: the 80 bytes of the font region, 16 glyphs of 5 (R6, R241). -/
abbrev Font := Vector Byte 80

end Sys2Proof
end

