-- ==== Sys2Proof/Syntax.lean ====
section
/-! DEFINITION. The instructions, one constructor per row of spec/opcode_table.json in the table's order (R74, R80).
Register operands are `Reg`, NN a byte, NNN the 12-bit address field as it stands in the word, N a row count. -/

namespace Sys2Proof

/-- The 34 instructions of R75. -/
inductive Instr where
  /-- 00E0 -/
  | cls
  /-- 00EE -/
  | ret
  /-- 1NNN -/
  | jp (nnn : BitVec 12)
  /-- 2NNN -/
  | call (nnn : BitVec 12)
  /-- 3XNN -/
  | seImm (x : Reg) (nn : Byte)
  /-- 4XNN -/
  | sneImm (x : Reg) (nn : Byte)
  /-- 5XY0 -/
  | seReg (x y : Reg)
  /-- 6XNN -/
  | ldImm (x : Reg) (nn : Byte)
  /-- 7XNN -/
  | addImm (x : Reg) (nn : Byte)
  /-- 8XY0 -/
  | ldReg (x y : Reg)
  /-- 8XY1 -/
  | orReg (x y : Reg)
  /-- 8XY2 -/
  | andReg (x y : Reg)
  /-- 8XY3 -/
  | xorReg (x y : Reg)
  /-- 8XY4 -/
  | addReg (x y : Reg)
  /-- 8XY5 -/
  | sub (x y : Reg)
  /-- 8XY6; Y is decoded and not used (R74, R151) -/
  | shr (x y : Reg)
  /-- 8XY7 -/
  | subn (x y : Reg)
  /-- 8XYE; Y is decoded and not used (R74, R153) -/
  | shl (x y : Reg)
  /-- 9XY0 -/
  | sneReg (x y : Reg)
  /-- ANNN -/
  | ldI (nnn : BitVec 12)
  /-- BNNN -/
  | jpV0 (nnn : BitVec 12)
  /-- CXNN -/
  | rnd (x : Reg) (nn : Byte)
  /-- DXYN; `n` is the number of sprite rows -/
  | drw (x y : Reg) (n : Nat)
  /-- EX9E -/
  | skp (x : Reg)
  /-- EXA1 -/
  | sknp (x : Reg)
  /-- FX07 -/
  | ldXDt (x : Reg)
  /-- FX0A -/
  | ldXK (x : Reg)
  /-- FX15 -/
  | ldDtX (x : Reg)
  /-- FX18 -/
  | ldStX (x : Reg)
  /-- FX1E -/
  | addIX (x : Reg)
  /-- FX29 -/
  | ldFX (x : Reg)
  /-- FX33 -/
  | ldBX (x : Reg)
  /-- FX55 -/
  | ldMemX (x : Reg)
  /-- FX65 -/
  | ldXMem (x : Reg)
deriving DecidableEq, Repr

end Sys2Proof
end

