-- ==== Sys2Proof/WellFormed.lean ====
section
/-! DEFINITION. Which terms of `Instr` an instruction word can hold. Register numbers, immediates and addresses are bounded by
their types; the row count of DXYN is a plain number, and the 4-bit field N holds 0 to 15 (R72, R73: "N is a count 0..15"). -/

namespace Sys2Proof

/-- The check on each instruction: DXYN's row count fits the 4-bit field N (R72, R73). -/
def Instr.wellFormed : Instr → Bool
  | .drw _ _ n => decide (n ≤ 15)
  | .cls | .ret | .jp _ | .call _ | .seImm _ _ | .sneImm _ _ | .seReg _ _ | .ldImm _ _ | .addImm _ _ | .ldReg _ _
  | .orReg _ _ | .andReg _ _ | .xorReg _ _ | .addReg _ _ | .sub _ _ | .shr _ _ | .subn _ _ | .shl _ _ | .sneReg _ _
  | .ldI _ | .jpV0 _ | .rnd _ _ | .skp _ | .sknp _ | .ldXDt _ | .ldXK _ | .ldDtX _ | .ldStX _ | .addIX _ | .ldFX _
  | .ldBX _ | .ldMemX _ | .ldXMem _ => true

/-- The instruction's fields fit its encoding. -/
abbrev WellFormed (i : Instr) : Prop := i.wellFormed = true

end Sys2Proof
end

