-- ==== Sys2Proof/Decode.lean ====
section
/-! DEFINITION. Decoding and encoding of instruction words (30_encoding.md). `decodeWord` is R75's total function, `decodeBytes`
reads the two big-endian bytes of R54 and R70 first, and every word of R77 is rejected by name. `encode` is written from the
patterns of R74. -/

namespace Sys2Proof

/-- Why bytes are no instruction. -/
inductive Reject where
  /-- The word is none of the 34 patterns: it raises UnknownOpcode with the whole word (R76, R77). -/
  | unknownOpcode (w : Word)
  /-- Fewer than the two bytes every instruction has (R71). The machine's fetch always hands over two. -/
  | truncated (bytes : List Byte)
deriving DecidableEq, Repr

/-- What a word decodes to: R75's "Instr or Unknown". -/
inductive Decoded where
  | instr (i : Instr)
  | rejected (why : Reject)
deriving DecidableEq, Repr

/-- w[15:12], the class (R72). -/
def Fields.op (w : Word) : BitVec 4 := w.extractLsb' 12 4

/-- w[11:8] as a register number (R72). -/
def Fields.x (w : Word) : Reg := (w.extractLsb' 8 4).toFin

/-- w[7:4] as a register number (R72). -/
def Fields.y (w : Word) : Reg := (w.extractLsb' 4 4).toFin

/-- w[3:0] (R72). -/
def Fields.n (w : Word) : BitVec 4 := w.extractLsb' 0 4

/-- w[7:0] (R72). -/
def Fields.nn (w : Word) : Byte := w.extractLsb' 0 8

/-- w[11:0] (R72). -/
def Fields.nnn (w : Word) : BitVec 12 := w.extractLsb' 0 12

/-- Class 0: the whole word is compared (R75, D3). -/
def decodeClass0 (w : Word) : Decoded :=
  if w = 0x00E0 then .instr .cls
  else if w = 0x00EE then .instr .ret
  else .rejected (.unknownOpcode w)

/-- Class 8: selected by N (R75). -/
def decodeClass8 (w : Word) : Decoded :=
  let x := Fields.x w
  let y := Fields.y w
  match Fields.n w with
  | 0x0 => .instr (.ldReg x y)
  | 0x1 => .instr (.orReg x y)
  | 0x2 => .instr (.andReg x y)
  | 0x3 => .instr (.xorReg x y)
  | 0x4 => .instr (.addReg x y)
  | 0x5 => .instr (.sub x y)
  | 0x6 => .instr (.shr x y)
  | 0x7 => .instr (.subn x y)
  | 0xE => .instr (.shl x y)
  | _ => .rejected (.unknownOpcode w)

/-- Class E: selected by NN (R75). -/
def decodeClassE (w : Word) : Decoded :=
  let x := Fields.x w
  match Fields.nn w with
  | 0x9E => .instr (.skp x)
  | 0xA1 => .instr (.sknp x)
  | _ => .rejected (.unknownOpcode w)

/-- Class F: selected by NN (R75). -/
def decodeClassF (w : Word) : Decoded :=
  let x := Fields.x w
  match Fields.nn w with
  | 0x07 => .instr (.ldXDt x)
  | 0x0A => .instr (.ldXK x)
  | 0x15 => .instr (.ldDtX x)
  | 0x18 => .instr (.ldStX x)
  | 0x1E => .instr (.addIX x)
  | 0x29 => .instr (.ldFX x)
  | 0x33 => .instr (.ldBX x)
  | 0x55 => .instr (.ldMemX x)
  | 0x65 => .instr (.ldXMem x)
  | _ => .rejected (.unknownOpcode w)

/-- R75's decode, a total function on 16-bit words. -/
def decodeWord (w : Word) : Decoded :=
  let x := Fields.x w
  let y := Fields.y w
  match Fields.op w with
  | 0x0 => decodeClass0 w
  | 0x1 => .instr (.jp (Fields.nnn w))
  | 0x2 => .instr (.call (Fields.nnn w))
  | 0x3 => .instr (.seImm x (Fields.nn w))
  | 0x4 => .instr (.sneImm x (Fields.nn w))
  | 0x5 => if Fields.n w = 0 then .instr (.seReg x y) else .rejected (.unknownOpcode w)
  | 0x6 => .instr (.ldImm x (Fields.nn w))
  | 0x7 => .instr (.addImm x (Fields.nn w))
  | 0x8 => decodeClass8 w
  | 0x9 => if Fields.n w = 0 then .instr (.sneReg x y) else .rejected (.unknownOpcode w)
  | 0xA => .instr (.ldI (Fields.nnn w))
  | 0xB => .instr (.jpV0 (Fields.nnn w))
  | 0xC => .instr (.rnd x (Fields.nn w))
  | 0xD => .instr (.drw x y (Fields.n w).toNat)
  | 0xE => decodeClassE w
  | _ => decodeClassF w

/-- The first byte in bits 15:8, the second in bits 7:0 (R54, R70). -/
def wordOfBytes (hi lo : Byte) : Word := hi ++ lo

/-- Decode the instruction at the head of a byte sequence; always two bytes (R71). -/
def decodeBytes : List Byte → Decoded
  | hi :: lo :: _ => decodeWord (wordOfBytes hi lo)
  | bytes => .rejected (.truncated bytes)

/-- Format F-addr, `oNNN` (R74). -/
def encodeAddr (op : BitVec 4) (nnn : BitVec 12) : Word := op ++ nnn

/-- Format F-imm, `oXNN`; F-ext too, with NN the fixed byte `ss` (R74). -/
def encodeImm (op : BitVec 4) (x : Reg) (nn : Byte) : Word := op ++ ((BitVec.ofFin x : BitVec 4) ++ nn : BitVec 12)

/-- Format F-reg, `oXYs`; F-draw too, with `s` the row count (R74). -/
def encodeReg (op : BitVec 4) (x y : Reg) (s : BitVec 4) : Word :=
  encodeImm op x ((BitVec.ofFin y : BitVec 4) ++ s)

/-- The word of a well-formed instruction (R74, R75). -/
def encode : Instr → Word
  | .cls => 0x00E0
  | .ret => 0x00EE
  | .jp nnn => encodeAddr 0x1 nnn
  | .call nnn => encodeAddr 0x2 nnn
  | .seImm x nn => encodeImm 0x3 x nn
  | .sneImm x nn => encodeImm 0x4 x nn
  | .seReg x y => encodeReg 0x5 x y 0x0
  | .ldImm x nn => encodeImm 0x6 x nn
  | .addImm x nn => encodeImm 0x7 x nn
  | .ldReg x y => encodeReg 0x8 x y 0x0
  | .orReg x y => encodeReg 0x8 x y 0x1
  | .andReg x y => encodeReg 0x8 x y 0x2
  | .xorReg x y => encodeReg 0x8 x y 0x3
  | .addReg x y => encodeReg 0x8 x y 0x4
  | .sub x y => encodeReg 0x8 x y 0x5
  | .shr x y => encodeReg 0x8 x y 0x6
  | .subn x y => encodeReg 0x8 x y 0x7
  | .shl x y => encodeReg 0x8 x y 0xE
  | .sneReg x y => encodeReg 0x9 x y 0x0
  | .ldI nnn => encodeAddr 0xA nnn
  | .jpV0 nnn => encodeAddr 0xB nnn
  | .rnd x nn => encodeImm 0xC x nn
  | .drw x y n => encodeReg 0xD x y (BitVec.ofNat 4 n)
  | .skp x => encodeImm 0xE x 0x9E
  | .sknp x => encodeImm 0xE x 0xA1
  | .ldXDt x => encodeImm 0xF x 0x07
  | .ldXK x => encodeImm 0xF x 0x0A
  | .ldDtX x => encodeImm 0xF x 0x15
  | .ldStX x => encodeImm 0xF x 0x18
  | .addIX x => encodeImm 0xF x 0x1E
  | .ldFX x => encodeImm 0xF x 0x29
  | .ldBX x => encodeImm 0xF x 0x33
  | .ldMemX x => encodeImm 0xF x 0x55
  | .ldXMem x => encodeImm 0xF x 0x65

/-- The two bytes of a word as memory holds them, bits 15:8 first (R54). -/
def bytesOfWord (w : Word) : List Byte := [w.extractLsb' 8 8, w.extractLsb' 0 8]

/-- The bytes of a well-formed instruction. -/
def encodeBytes (i : Instr) : List Byte := bytesOfWord (encode i)

/-- The one 16-bit word that an opcode-table number of `nbits` bits stands for, the bits above `nbits` zero. -/
def tableWord (nbits w : Nat) : Word := BitVec.ofNat 16 (w % 2 ^ nbits)

/-- The instruction the decoder reads from the bytes of an opcode-table number. -/
def decodeTableWord (nbits w : Nat) : Option Instr :=
  match decodeBytes (bytesOfWord (tableWord nbits w)) with
  | .instr i => some i
  | .rejected _ => none

end Sys2Proof
end

