-- ==== Sys2Proof/Machine/Flags.lean ====
section
/-! DEFINITION. The flag computations (R142, 42_alu.md) and the collision of the graphics primitive (R101, 40_graphics.md). -/

namespace Sys2Proof.Machine

/-- A flag as VF holds it: 0 or 1 (R21). -/
def flagByte (b : Bool) : Byte := if b then 1 else 0

/-- 8XY4: the unsigned sum exceeds 255 (R142, R149). -/
def carryOut (a b : Byte) : Bool := decide (255 < a.toNat + b.toNat)

/-- 8XY5 and 8XY7: the minuend is strictly greater than the subtrahend (R142, R150, R152). -/
def noBorrow (minuend subtrahend : Byte) : Bool := decide (subtrahend.toNat < minuend.toNat)

/-- 8XY6: the bit shifted out at bit 0 (R142, R151). -/
def shiftedOutRight (a : Byte) : Bool := a.getLsbD 0

/-- 8XYE: the bit shifted out at bit 7 (R142, R153). -/
def shiftedOutLeft (a : Byte) : Bool := a.getLsbD 7

/-- A set pixel is turned off: `prev == 1 and b == 1` (R101, C2 of 90_conflicts.md). -/
def collides (prev b : Bool) : Bool := prev && b

end Sys2Proof.Machine
end

