-- ==== Sys2Proof/Config.lean ====
section
/-! DEFINITION. What an implementation fixes (the parameters of R7, 00_scope.md) and the free values the spec leaves open.
The parameters are plain data, so that a state can carry them and a statement about every state is a statement about every
value of every parameter. The spec's own values for them are in Machine/SpecValues.lean. -/

namespace Sys2Proof

/-- RAND_COMBINE (R7, R154): how CXNN combines the random byte with NN. -/
inductive RandCombine where
  | add
  | and
deriving DecidableEq, Repr

/-- VF_ORDER (R7, R141): what VF holds after a flag instruction whose destination is VF. -/
inductive VfOrder where
  | flagWins
  | resultWins
  | any
deriving DecidableEq, Repr

/-- NOKEY_POLICY (R7, R190): what a key query makes of the answer `NoKey`. -/
inductive NoKeyPolicy where
  | noPress
  | failure
deriving DecidableEq, Repr

/-- UNINIT_POLICY (R7, R38): what a read of an element no instruction has written does. -/
inductive UninitPolicy where
  | zero
  | fault
deriving DecidableEq, Repr

/-- The parameters of R7. No step changes them. -/
structure Params where
  /-- LOAD_OFFSET: where the load writes, and the entry point (R242, R243). -/
  loadOffset : Word
  /-- CLOCK_HZ: the tick rate; no rule depends on it (R253). R7 says "positive number"; that it is a whole number is the
  model's choice (DESIGN CHOICE, log 26). -/
  clockHz : Nat
  /-- FONT: the bytes of 0x000 to 0x04F at creation (R241). -/
  font : Font
  randCombine : RandCombine
  vfOrder : VfOrder
  noKey : NoKeyPolicy
  uninit : UninitPolicy
deriving DecidableEq, Repr

/-- The ranges R7 gives: 0x050 <= LOAD_OFFSET <= 0xFFF and a positive CLOCK_HZ. -/
abbrev Params.wf (p : Params) : Prop :=
  0x050 ≤ p.loadOffset.toNat ∧ p.loadOffset.toNat ≤ 0xFFF ∧ 0 < p.clockHz

/-- Free value: the random byte of CXNN where the host's answers list none (R154, "any u8, a fresh draw each execution").
The argument is the state's counter of draws. Nothing can be proved of its values (log 5). -/
opaque Config.freeRandomByte : Nat → Byte

/-- Free value: VF after a flag instruction whose destination is VF, under VF_ORDER = Any (R141, "any u8 (a draw)").
The argument is the state's counter of draws. Nothing can be proved of its values (log 6). -/
opaque Config.freeFlagByte : Nat → Byte

end Sys2Proof
end

