-- ==== Sys2Proof/Machine/SpecValues.lean ====
section
/-! DEFINITION. The spec's own values of the parameters (R7, 00_scope.md), which the machine after reset carries. -/

namespace Sys2Proof.Machine

/-- The spec's value of FONT, glyph by glyph (R241, 70_reset_and_hazards.md). -/
def specFont : Font := #v[
  0xF0, 0x90, 0x90, 0x90, 0xF0,
  0x20, 0x60, 0x20, 0x20, 0x70,
  0xF0, 0x10, 0xF0, 0x80, 0xF0,
  0xF0, 0x10, 0xF0, 0x10, 0xF0,
  0x90, 0x90, 0xF0, 0x10, 0x10,
  0xF0, 0x80, 0xF0, 0x10, 0xF0,
  0xF0, 0x80, 0xF0, 0x90, 0xF0,
  0xF0, 0x10, 0x20, 0x40, 0x40,
  0xF0, 0x90, 0xF0, 0x90, 0xF0,
  0xF0, 0x90, 0xF0, 0x10, 0xF0,
  0xF0, 0x90, 0xF0, 0x90, 0x90,
  0xE0, 0x90, 0xE0, 0x90, 0xE0,
  0xF0, 0x80, 0x80, 0x80, 0xF0,
  0xE0, 0x90, 0x90, 0x90, 0xE0,
  0xF0, 0x80, 0xF0, 0x80, 0xF0,
  0xF0, 0x80, 0xF0, 0x80, 0x80]

/-- The column "spec value" of R7. -/
def specParams : Params where
  loadOffset := 0x200
  clockHz := 60
  font := specFont
  randCombine := .add
  vfOrder := .flagWins
  noKey := .noPress
  uninit := .zero

end Sys2Proof.Machine
end

