-- ==== Sys2Proof/Machine/State.lean ====
section
/-! DEFINITION. The machine's state as plain data (10_state.md), the faults and refusals, creation and reset.
The fields `cfg`, `keypad`, `display`, `random`, `draws`, `waiting` and `trace` are the model's own (INVENTORY.md, State). -/

namespace Sys2Proof.Machine

/-- Memory: the bytes that differ from what an unlisted address reads as, by rising address (R31, log 15).
`Memory.unlisted`, `Memory.read`, `Memory.write` and the canonical form `Memory.wf` are in Machine/Ops.lean. -/
abbrev Memory := List Host.Cell

/-- The graphics buffer: 32 rows of 64 pixels (R30). -/
abbrev Pixels := Vector (Vector Bool 64) 32

/-- The elements that carry a written bit under UNINIT_POLICY = Fault (R38). -/
inductive Element where
  | v (x : Reg)
  | i
  | dt
  | st
deriving DecidableEq, Repr

/-- The written bits of R38. -/
structure Written where
  v : Vector Bool 16
  i : Bool
  dt : Bool
  st : Bool
deriving DecidableEq, Repr

/-- The datum of a KeypadFailure record (R190, R212): the host's error, an opaque number (log 17), or `NoKey`. -/
inductive KeypadError where
  | host (e : Nat)
  | noKey
deriving DecidableEq, Repr

/-- The fault kinds of R212, each with its datum and the PC at which it was raised. All of them are safe: the machine stops
where the spec says the run ends. -/
inductive Fault where
  /-- Raised by `cycle` on a word of R77 (R76). Safe: the spec's own fault. -/
  | unknownOpcode (w : Word) (pc : Word)
  /-- Raised by EX9E, EXA1 and FX0A on an `Error` answer, and on `NoKey` under NOKEY_POLICY = Failure (R190). Safe. -/
  | keypadFailure (e : KeypadError) (pc : Word)
  /-- Raised by fetch, DXYN, FX33, FX55 and FX65 at the first address above 0xFFF (R51, R52, R53). Safe. -/
  | memoryOutOfRange (addr : Nat) (pc : Word)
  /-- Raised by 2NNN with SP = 15 (R123). Safe. -/
  | stackOverflow (pc : Word)
  /-- Raised by 00EE with SP = 0 (R121). Safe. -/
  | stackUnderflow (pc : Word)
  /-- Raised by DXYN on an `Error` answer of the display (R106, R220). Safe. -/
  | displayFailure (e : Nat) (pc : Word)
  /-- Raised by any instruction that reads an unwritten element under UNINIT_POLICY = Fault only (R38). Safe; never raised
  under the policy the machine has after reset. -/
  | uninitRead (el : Element) (pc : Word)
deriving DecidableEq, Repr

/-- Why the model gives no meaning. -/
inductive Refusal where
  /-- Of an instruction that has no meaning yet; no arm of `exec` uses it now. Safe. -/
  | notModelled (mnemonic : String)
  /-- Raised by 2NNN and 00EE when SP is above 15: no stack entry has that number, no rule gives such a state a meaning, and
  no run reaches it (R27, log 10). Safe. -/
  | stackPointerOutOfRange (sp : Byte)
deriving DecidableEq, Repr

/-- The state of the execution loop (R32). -/
inductive RunState where
  | running
  /-- Stopped(Clean) -/
  | stoppedClean
  /-- Stopped(Error e) -/
  | stoppedError (e : Fault)
deriving DecidableEq, Repr

/-- A host answer to a getKey request (R8). A key code above 0xF cannot be written (R190, D28; log 21). -/
inductive KeyAnswer where
  | key (k : KeyCode)
  | noKey
  | quit
  | error (e : Nat)
deriving DecidableEq, Repr

/-- A host answer to a render request (R8). -/
inductive DisplayAnswer where
  | ok
  | error (e : Nat)
deriving DecidableEq, Repr

/-- The host's side of one request interface of R8: the answers it has ready, first one first, and the answer it gives to
every request after those (`none`: it has not answered yet). A finite run of any host is one such script (log 2). -/
structure Port (α : Type) where
  queue : List α
  after : Option α
deriving DecidableEq, Repr

/-- A request of the core that the host answers (R8) and that can suspend it. -/
inductive Request where
  | getKey
  | render
deriving DecidableEq, Repr

/-- An output event (R8, R106, R224). -/
inductive Event where
  /-- A render request with its snapshot, recorded when it is made, whatever its answer (R105, R106). -/
  | render (snapshot : Pixels)
  /-- The sound cue. -/
  | cue
deriving DecidableEq, Repr

/-- The complete machine state (10_state.md), and the model's own fields. -/
structure State where
  /-- V0 to VF (R20). -/
  v : Vector Byte 16
  /-- I (R25). -/
  i : Word
  /-- PC (R23). -/
  pc : Word
  /-- SP (R27). -/
  sp : Byte
  /-- The return stack (R26). -/
  stack : Vector Word 16
  /-- DT (R28). -/
  dt : Byte
  /-- ST (R29). -/
  st : Byte
  /-- Memory (R31). -/
  mem : Memory
  /-- The graphics buffer (R30). -/
  pix : Pixels
  /-- Run (R32). -/
  run : RunState
  /-- StopReq (R33). -/
  stopReq : Bool
  /-- The written bits (R38). -/
  written : Written
  /-- The parameters of R7; no step changes them. -/
  cfg : Params
  /-- The host's getKey answers (R8). -/
  keypad : Port KeyAnswer
  /-- The host's render answers (R8). -/
  display : Port DisplayAnswer
  /-- The host's random bytes (R8); where it lists none, a free value. -/
  random : Port Byte
  /-- How many free values have been drawn. -/
  draws : Nat
  /-- The host request the core is suspended in, if it is (R105, R190, R232; log 4). -/
  waiting : Option Request
  /-- The output events, latest first (D32). -/
  trace : List Event
deriving DecidableEq, Repr

/-- The state at creation, for any parameters (R37, R240). -/
def State.create (p : Params) : State where
  v := Vector.replicate 16 0
  i := 0
  pc := p.loadOffset
  sp := 0
  stack := Vector.replicate 16 0
  dt := 0
  st := 0
  mem := []
  pix := Vector.replicate 32 (Vector.replicate 64 false)
  run := .running
  stopReq := false
  written := { v := Vector.replicate 16 false, i := false, dt := false, st := false }
  cfg := p
  keypad := { queue := [], after := some .noKey }
  display := { queue := [], after := some .ok }
  random := { queue := [], after := none }
  draws := 0
  waiting := none
  trace := []

/-- The machine right after reset: creation with the spec's values of the parameters (R7, R37, R240). -/
def State.reset : State := State.create specParams

end Sys2Proof.Machine
end

