-- ==== Sys2Proof/Machine/Ops.lean ====
section
/-! DEFINITION. The named operations over registers, memory, stack, graphics buffer and the host's interfaces that the meanings
share. An operation that can end the instruction takes what follows as its last argument `k`, so that nothing after a raised
fault runs ("nothing after it in the pseudocode runs", 00_scope.md, Notation). -/

namespace Sys2Proof.Machine

/-- How an instruction's execution ends (R211): `next` for Success, Retry and Quit (and for a wait, R190), `fault` for Fault f. -/
abbrev Result := Host.Outcome State Fault Refusal

/-! ### Register and state updates -/

/-- V[x] (R20). -/
def State.reg (s : State) (x : Reg) : Byte := s.v.get x

/-- Does the element carry a set written bit (R38)? -/
def Written.has (w : Written) : Element → Bool
  | .v x => w.v.get x
  | .i => w.i
  | .dt => w.dt
  | .st => w.st

/-- The element's written bit becomes 1 (R38). -/
def Written.mark (w : Written) : Element → Written
  | .v x => { w with v := w.v.set x true }
  | .i => { w with i := true }
  | .dt => { w with dt := true }
  | .st => { w with st := true }

/-- May the element be read: always under UNINIT_POLICY = Zero, only once written under Fault (R38). -/
def State.readable (s : State) (el : Element) : Bool :=
  match s.cfg.uninit with
  | .zero => true
  | .fault => s.written.has el

/-- V[x] <- b; the written bit becomes 1 (R20, R38). -/
def State.setReg (s : State) (x : Reg) (b : Byte) : State :=
  { s with v := s.v.set x b, written := s.written.mark (.v x) }

/-- I <- w (R25, R38). -/
def State.setI (s : State) (w : Word) : State :=
  { s with i := w, written := s.written.mark .i }

/-- DT <- b by an instruction (R28, R38). -/
def State.setDt (s : State) (b : Byte) : State :=
  { s with dt := b, written := s.written.mark .dt }

/-- ST <- b by an instruction (R29, R38). -/
def State.setSt (s : State) (b : Byte) : State :=
  { s with st := b, written := s.written.mark .st }

/-- PC <- w (R23). -/
def State.setPc (s : State) (w : Word) : State := { s with pc := w }

/-- PC <- A + n, with A the instruction's own address, which PC still holds (R23, R24). -/
def State.advance (s : State) (n : Word) : State := s.setPc (s.pc + n)

/-- A skip: PC <- A + 4 if the condition holds, else PC <- A + 2 (R24, R251). -/
def State.skipIf (s : State) (c : Bool) : State := s.advance (if c then 4 else 2)

/-- SP <- b (R27). -/
def State.setSp (s : State) (b : Byte) : State := { s with sp := b }

/-- Stack[j] <- w (R26). -/
def State.setStackEntry (s : State) (j : Nat) (w : Word) : State := { s with stack := s.stack.setIfInBounds j w }

/-- Stack[j] (R26), for j in 0..15. -/
def State.stackEntry (s : State) (j : Nat) : Word := (s.stack[j]?).getD 0

/-- Memory replaced. -/
def State.setMem (s : State) (m : Memory) : State := { s with mem := m }

/-- The graphics buffer replaced. -/
def State.setPix (s : State) (p : Pixels) : State := { s with pix := p }

/-- Run <- r (R32). -/
def State.setRun (s : State) (r : RunState) : State := { s with run := r }

/-- Suspended in a host request, or not (R190, R232). -/
def State.setWaiting (s : State) (w : Option Request) : State := { s with waiting := w }

/-- The keypad's remaining answers. -/
def State.setKeypad (s : State) (p : Port KeyAnswer) : State := { s with keypad := p }

/-- The display's remaining answers. -/
def State.setDisplay (s : State) (p : Port DisplayAnswer) : State := { s with display := p }

/-- The remaining random bytes. -/
def State.setRandom (s : State) (p : Port Byte) : State := { s with random := p }

/-- One free value has been drawn. -/
def State.countDraw (s : State) : State := { s with draws := s.draws + 1 }

/-- DT <- DT - 1 by the cycle (R223); no instruction writes it here, so its written bit stays (R38). -/
def State.lowerDt (s : State) : State := { s with dt := s.dt - 1 }

/-- ST <- ST - 1 by the cycle (R223). -/
def State.lowerSt (s : State) : State := { s with st := s.st - 1 }

/-- An output event is recorded in the run's trace (D32). -/
def State.emit (s : State) (e : Event) : State := { s with trace := e :: s.trace }

/-! ### Memory -/

/-- What an address that memory does not list reads as: FONT in 0x000 to 0x04F, zero elsewhere (R37, R57, R241). -/
def Memory.unlisted (font : Font) (a : Nat) : Byte := if h : a < 80 then font[a] else 0

/-- The byte listed for an address. -/
def Memory.lookup : Memory → Nat → Option Byte
  | [], _ => none
  | c :: m, a => if c.1 = a then some c.2 else Memory.lookup m a

/-- The byte at an address. -/
def Memory.read (font : Font) (m : Memory) (a : Nat) : Byte := (Memory.lookup m a).getD (Memory.unlisted font a)

/-- The list without an entry for an address. -/
def Memory.erase (m : Memory) (a : Nat) : Memory := m.filter (fun c => decide (c.1 ≠ a))

/-- The list with one entry for an address, in its place in the rising order. -/
def Memory.insert : Memory → Nat → Byte → Memory
  | [], a, b => [(a, b)]
  | c :: m, a, b => if a < c.1 then (a, b) :: c :: m else if a = c.1 then (a, b) :: m else c :: Memory.insert m a b

/-- One byte written, the canonical form kept: writing what an unlisted address reads as removes the entry. -/
def Memory.write (font : Font) (m : Memory) (a : Nat) (b : Byte) : Memory :=
  if b = Memory.unlisted font a then Memory.erase m a else Memory.insert m a b

/-- Consecutive bytes written from an address (R52). -/
def Memory.writeBytes (font : Font) : Memory → Nat → List Byte → Memory
  | m, _, [] => m
  | m, a, b :: bs => Memory.writeBytes font (Memory.write font m a b) (a + 1) bs

/-- The canonical form: rising addresses of the 4096-byte space (R31), no entry equal to what an unlisted address reads as. -/
abbrev Memory.wf (font : Font) (m : Memory) : Prop :=
  m.Pairwise (fun c d => c.1 < d.1) ∧ ∀ c ∈ m, c.1 ≤ 0xFFF ∧ c.2 ≠ Memory.unlisted font c.1

/-- Mem[a] (R31). -/
def State.byteAt (s : State) (a : Nat) : Byte := Memory.read s.cfg.font s.mem a

/-- The first of n addresses from `addr` that names no byte, in the order of R51's and R52's check; the sum does not wrap. -/
def firstOutside (addr n : Nat) : Option Nat := ((List.range n).map (addr + ·)).find? (fun a => decide (0xFFF < a))

/-- MemRead(addr, n) (R51). -/
def memRead (s : State) (addr n : Nat) (k : List Byte → Result) : Result :=
  match firstOutside addr n with
  | some a => .fault (.memoryOutOfRange a s.pc)
  | none => k ((List.range n).map fun j => s.byteAt (addr + j))

/-- MemWrite(addr, n, v) with n the length of v: every address is checked before any byte is written (R52). -/
def memWrite (s : State) (addr : Nat) (v : List Byte) (k : State → Result) : Result :=
  match firstOutside addr v.length with
  | some a => .fault (.memoryOutOfRange a s.pc)
  | none => k (s.setMem (Memory.writeBytes s.cfg.font s.mem addr v))

/-! ### The return stack -/

/-- The push of a call: StackOverflow with SP = 15, else SP <- SP + 1 and Stack[SP] <- A (R123). -/
def pushReturn (s : State) (k : State → Result) : Result :=
  if s.sp = 15 then .fault (.stackOverflow s.pc)
  else if s.sp.toNat < 15 then k ((s.setSp (s.sp + 1)).setStackEntry (s.sp.toNat + 1) s.pc)
  else .refused (.stackPointerOutOfRange s.sp)

/-- The pop of a return: StackUnderflow with SP = 0, else the entry Stack[SP], read before SP <- SP - 1 (R24, R121). -/
def popReturn (s : State) (k : Word → State → Result) : Result :=
  if s.sp = 0 then .fault (.stackUnderflow s.pc)
  else if s.sp.toNat ≤ 15 then k (s.stackEntry s.sp.toNat) (s.setSp (s.sp - 1))
  else .refused (.stackPointerOutOfRange s.sp)

/-! ### The graphics buffer -/

/-- Pix(x, y), for x in 0..63 and y in 0..31 (R30). -/
def Pixels.at (p : Pixels) (x y : Nat) : Bool := ((p[y]?).bind (·[x]?)).getD false

/-- Pix(x, y) <- b. -/
def Pixels.put (p : Pixels) (x y : Nat) (b : Bool) : Pixels :=
  if h : y < 32 then p.set y (p[y].setIfInBounds x b) else p

/-- `clear()`: every one of the 2048 pixels is 0 (R100). -/
def Pixels.blank : Pixels := Vector.replicate 32 (Vector.replicate 64 false)

/-- `set(x, y, b)`, the XOR primitive (R101); the second component collects whether any pixel so far went from 1 to 0. -/
def setPixel (d : Pixels × Bool) (x y : Nat) (b : Bool) : Pixels × Bool :=
  let prev := Pixels.at d.1 x y
  (Pixels.put d.1 x y (prev ^^ b), d.2 || collides prev b)

/-- A coordinate past the edge wraps by one subtraction of the dimension (R102). -/
def wrapOnce (c size : Nat) : Nat := if size ≤ c then c - size else c

/-- The eight pixels of one sprite row at grid row `py`; bit 7 is the leftmost pixel (R102, D29). -/
def drawRow (row : Byte) (x0 py : Nat) (d : Pixels × Bool) : Pixels × Bool :=
  (List.range 8).foldl (fun d c => setPixel d (wrapOnce (x0 + c) 64) py (row.getLsbD (7 - c))) d

/-- The rows of a sprite from row number `r` on (R102). -/
def drawRows (x0 y0 : Nat) : Nat → List Byte → Pixels × Bool → Pixels × Bool
  | _, [], d => d
  | r, row :: rows, d => drawRows x0 y0 (r + 1) rows (drawRow row x0 (wrapOnce (y0 + r) 32) d)

/-- `writeSprite(rows, x, y)`: the buffer after it, and whether any pixel went from 1 to 0 (R102, R103). -/
def writeSprite (rows : List Byte) (x y : Byte) (p : Pixels) : Pixels × Bool :=
  drawRows (x.toNat % 64) (y.toNat % 32) 0 rows (p, false)

/-! ### The host's interfaces -/

/-- One request: the answer and what remains, or none while the host has not answered (R8). -/
def Port.ask {α : Type} (p : Port α) : Option (α × Port α) :=
  match p.queue with
  | a :: q => some (a, { p with queue := q })
  | [] => p.after.map (fun a => (a, p))

/-- The core stays inside the request: all state is kept and the cycle does not end (R105, R190, R232; log 4). -/
def awaitHost (q : Request) (s : State) : Result := .next (s.setWaiting (some q))

/-- KeyQuery() (R190): one getKey request; `k` is given the key or none, and the state with the answer taken. A `Quit` answer
ends the run cleanly and the instruction makes no change (R218). -/
def keyQuery (s : State) (k : Option KeyCode → State → Result) : Result :=
  match s.keypad.ask with
  | none => awaitHost .getKey s
  | some (.key c, rest) => k (some c) (s.setKeypad rest)
  | some (.noKey, rest) =>
    match s.cfg.noKey with
    | .noPress => k none (s.setKeypad rest)
    | .failure => .fault (.keypadFailure .noKey s.pc)
  | some (.quit, rest) => .next ((s.setKeypad rest).setRun .stoppedClean)
  | some (.error e, _) => .fault (.keypadFailure (.host e) s.pc)

/-- The sink's answer to a render request that has been made: `k` goes on with the answer taken, an `Error e` answer raises
DisplayFailure (R105, R106, R220), and without an answer the core waits. -/
def renderAnswer (s : State) (k : State → Result) : Result :=
  match s.display.ask with
  | none => awaitHost .render s
  | some (.ok, rest) => k (s.setDisplay rest)
  | some (.error e, _) => .fault (.displayFailure e s.pc)

/-- `render(snapshot of Pix)` (R105, R106): the request is recorded with its snapshot, and then the sink's answer is awaited. An
`Ok` that is at hand is taken at once; else the state with the request made is the next state, and the next step takes the
answer by `renderAnswer`. An `Error` is always taken so, since a fault carries no state to hold the request (log 12). -/
def render (s : State) (k : State → Result) : Result :=
  let asked := s.emit (.render s.pix)
  match s.display.ask with
  | some (.ok, rest) => k (asked.setDisplay rest)
  | none | some (.error _, _) => awaitHost .render asked

/-- draw_byte() (R154): the host's random byte, else a free value (log 5). -/
def drawByte (s : State) (k : Byte → State → Result) : Result :=
  match s.random.ask with
  | some (r, rest) => k r (s.setRandom rest)
  | none => k (Config.freeRandomByte s.draws) s.countDraw

/-- How RAND_COMBINE combines the random byte with NN (R154, C1 of 90_conflicts.md). -/
def combineRandom (c : RandCombine) (r nn : Byte) : Byte :=
  match c with
  | .add => r + nn
  | .and => r &&& nn

/-- WriteResultAndFlag(X, result, flag) (R141). -/
def writeResultAndFlag (s : State) (x : Reg) (result : Byte) (flag : Bool) : State :=
  if x ≠ vf then (s.setReg x result).setReg vf (flagByte flag)
  else
    match s.cfg.vfOrder with
    | .flagWins => s.setReg vf (flagByte flag)
    | .resultWins => s.setReg vf result
    | .any => (s.setReg vf (Config.freeFlagByte s.draws)).countDraw

end Sys2Proof.Machine
end

