-- ==== Sys2Proof/Machine/Operands.lean ====
section
/-! DEFINITION. The operand forms: a register, I, DT, the block V0..V[X], the immediates and the address field. A read of an
element goes through `need`, which is where R38's written bits are consulted. -/

namespace Sys2Proof.Machine

/-- Under UNINIT_POLICY = Fault, a read of an unwritten element raises UninitRead before any write (R38). -/
def need (s : State) (el : Element) (k : Result) : Result :=
  if s.readable el then k else .fault (.uninitRead el s.pc)

/-- The operand V[x]. -/
def needReg (s : State) (x : Reg) (k : Byte → Result) : Result := need s (.v x) (k (s.reg x))

/-- The operand I. -/
def needI (s : State) (k : Word → Result) : Result := need s .i (k s.i)

/-- The operand DT. -/
def needDt (s : State) (k : Byte → Result) : Result := need s .dt (k s.dt)

/-- The register numbers 0 to X inclusive, rising (R174, R175). -/
def regsUpTo (x : Reg) : List Reg :=
  ([0, 1, 2, 3, 4, 5, 6, 7, 8, 9, 10, 11, 12, 13, 14, 15] : List Reg).take (x.val + 1)

/-- The operands V[r] for a list of registers, read in its order. -/
def needRegs (s : State) : List Reg → (List Byte → Result) → Result
  | [], k => k []
  | r :: rs, k => needReg s r fun a => needRegs s rs fun as => k (a :: as)

/-- V[r] <- b for a list of registers and their bytes, in order (R175). -/
def State.setRegs : State → List (Reg × Byte) → State
  | s, [] => s
  | s, (r, b) :: rest => (s.setReg r b).setRegs rest

/-- zext_16(NNN) (R73). -/
def addrOf (nnn : BitVec 12) : Word := nnn.setWidth 16

/-- zext_16(v) (00_scope.md, Notation). -/
def zext16 (b : Byte) : Word := b.setWidth 16

/-- The hundreds, tens and ones digits of a byte (R173). -/
def bcdDigits (b : Byte) : List Byte :=
  [BitVec.ofNat 8 (b.toNat / 100), BitVec.ofNat 8 (b.toNat / 10 % 10), BitVec.ofNat 8 (b.toNat % 10)]

/-- Is the queried key the one a register names: `k != NONE and k == V[X]` (R191). -/
def keyMatches (key : Option KeyCode) (a : Byte) : Bool :=
  match key with
  | some k => k.val == a.toNat
  | none => false

end Sys2Proof.Machine
end

