-- ==== Sys2Proof/Machine/Graphics.lean ====
section
/-! DEFINITION. The graphics instructions (40_graphics.md): 00E0 and DXYN. -/

namespace Sys2Proof.Machine

/-- `CLS` (R107): no render is requested. -/
def execCls (s : State) : Result := .next ((s.setPix Pixels.blank).advance 2)

/-- The state at DXYN's render request: the sprite drawn, VF the collision (R108). -/
def drawSprite (s : State) (rows : List Byte) (vx vy : Byte) : State :=
  (s.setPix (writeSprite rows vx vy s.pix).1).setReg vf (flagByte (writeSprite rows vx vy s.pix).2)

/-- What DXYN does after the sink's `Ok` (R108). -/
def finishDraw (s : State) : Result := .next (s.advance 2)

/-- `DRW Vx, Vy, n` (R108). -/
def execDrw (x y : Reg) (n : Nat) (s : State) : Result :=
  needReg s x fun vx => needReg s y fun vy => needI s fun i => memRead s i.toNat n fun rows =>
    render (drawSprite s rows vx vy) finishDraw

/-- The rest of a DXYN whose render request has been made and not yet answered: the pixels and VF are written (R105, R108). -/
def resumeDraw (s : State) : Result := renderAnswer s finishDraw

end Sys2Proof.Machine
end

