-- ==== Sys2Proof/Machine/Cycle.lean ====
section
/-! DEFINITION. The machine cycle around an instruction's execution (60_exceptions.md): stop check, fetch, decode, timers, and
what a fault makes of Run. `execute` is the dispatch of Machine/Dispatch.lean, handed over by Machine/Step.lean. -/

namespace Sys2Proof.Machine

/-- Fetch() (R53, R70): the two bytes at PC, big-endian; PC is not changed. -/
def fetch (s : State) (k : Word → Result) : Result :=
  memRead s s.pc.toNat 2 fun bs => k (wordOfBytes (bs.getD 0 0) (bs.getD 1 0))

/-- The delay timer's part of TimerDecrement (R223); an unwritten DT is left alone under UNINIT_POLICY = Fault (R38). -/
def delayTick (s : State) : State :=
  if s.readable .dt ∧ s.dt ≠ 0 then s.lowerDt else s

/-- The sound timer's part of TimerDecrement: the cue is emitted when ST goes from 1 to 0 (R223, R224). -/
def soundTick (s : State) : State :=
  if s.readable .st ∧ s.st ≠ 0 then
    (if s.st = 1 then s.lowerSt.emit .cue else s.lowerSt)
  else s

/-- TimerDecrement() (R223). -/
def timerDecrement (s : State) : State := soundTick (delayTick s)

/-- The end of a cycle (R210): after Success and Retry the timers are decremented; after Quit, a fault, and while the
instruction still waits for the host (R105, R190), they are not. -/
def endCycle : Result → Result
  | .next t => if t.run = .running ∧ t.waiting = none then .next (timerDecrement t) else .next t
  | .fault f => .fault f
  | .refused r => .refused r

/-- Fetch, decode and execute (R210). -/
def runInstruction (execute : Instr → State → Result) (s : State) : Result :=
  fetch s fun w =>
    match decodeWord w with
    | .instr i => endCycle (execute i s)
    | .rejected _ => .fault (.unknownOpcode w s.pc)

/-- Cycle() (R210): a stopped core runs none; the stop request is observed before the fetch and not while an instruction waits
for the host (R216). A key query that waits has changed nothing, so its instruction is taken up from its fetch (R190); a DXYN
that waits is taken up at the sink's answer (R105). -/
def cycle (execute : Instr → State → Result) (s : State) : Result :=
  match s.run with
  | .running =>
    match s.waiting with
    | none => if s.stopReq = true then .next (s.setRun .stoppedClean) else runInstruction execute s
    | some .getKey => runInstruction execute (s.setWaiting none)
    | some .render => endCycle (resumeDraw (s.setWaiting none))
  | .stoppedClean | .stoppedError _ => .next s

/-- What a tick leaves, Run included: `Fault f: Run <- Stopped(Error f)` (R210, R213). The rest of a faulted state is not a
result of the machine (R214). -/
def recordOutcome (s : State) : Result → State
  | .next t => t
  | .fault f => s.setRun (.stoppedError f)
  | .refused _ => s

/-- The core waits for an answer that the host has ready. -/
def State.answerAtHand (s : State) : Bool :=
  match s.run, s.waiting with
  | .running, some .getKey => s.keypad.ask.isSome
  | .running, some .render => s.display.ask.isSome
  | _, _ => false

/-- A clock tick runs the cycle to its end unless the host owes an answer: where a step leaves the core waiting for an answer
that is at hand, the tick takes it too (R210; log 12). `stepOf` is the step. -/
def tickWith (stepOf : State → Result) (s : State) : State :=
  let t := recordOutcome s (stepOf s)
  if t.answerAtHand then recordOutcome t (stepOf t) else t

/-- The state in which the very next step fetches and runs the instruction whose bytes are given: they are stored at PC (at
0x200 where PC leaves no room for them), and the core is running, not suspended, with no stop requested. -/
def State.placeCode (s : State) (code : List Byte) : State :=
  let pc : Word := if s.pc.toNat + code.length ≤ 0x1000 then s.pc else 0x200
  { s with
    mem := Memory.writeBytes s.cfg.font s.mem pc.toNat code
    pc := pc
    run := .running
    stopReq := false
    waiting := none }

end Sys2Proof.Machine
end

