-- ==== Sys2Proof/Machine/Alu.lean ====
section
/-! DEFINITION. Register loads and the ALU (42_alu.md): 6XNN, 7XNN, 8XY0 to 8XYE, CXNN. Every instruction reads its operands
before it writes (R140) and ends with PC <- A + 2. -/

namespace Sys2Proof.Machine

/-- V[X] <- f(V[X], V[Y]), no flag (R146 to R148). -/
def bitwise (f : Byte → Byte → Byte) (x y : Reg) (s : State) : Result :=
  needReg s x fun a => needReg s y fun b => .next ((s.setReg x (f a b)).advance 2)

/-- A result to V[X] and a flag to VF from V[X] and V[Y] (R149, R150, R152). -/
def arith (result : Byte → Byte → Byte) (flag : Byte → Byte → Bool) (x y : Reg) (s : State) : Result :=
  needReg s x fun a => needReg s y fun b => .next ((writeResultAndFlag s x (result a b) (flag a b)).advance 2)

/-- A result to V[X] and a flag to VF from V[X] alone (R151, R153). -/
def shift (result : Byte → Byte) (flag : Byte → Bool) (x : Reg) (s : State) : Result :=
  needReg s x fun a => .next ((writeResultAndFlag s x (result a) (flag a)).advance 2)

/-- `LD Vx, nn` (R143). -/
def execLdImm (x : Reg) (nn : Byte) (s : State) : Result := .next ((s.setReg x nn).advance 2)

/-- `ADD Vx, nn` (R144). -/
def execAddImm (x : Reg) (nn : Byte) (s : State) : Result :=
  needReg s x fun a => .next ((s.setReg x (a + nn)).advance 2)

/-- `LD Vx, Vy` (R145). -/
def execLdReg (x y : Reg) (s : State) : Result := needReg s y fun b => .next ((s.setReg x b).advance 2)

/-- `OR Vx, Vy` (R146). -/
def execOrReg (x y : Reg) (s : State) : Result := bitwise (fun a b => a ||| b) x y s

/-- `AND Vx, Vy` (R147). -/
def execAndReg (x y : Reg) (s : State) : Result := bitwise (fun a b => a &&& b) x y s

/-- `XOR Vx, Vy` (R148). -/
def execXorReg (x y : Reg) (s : State) : Result := bitwise (fun a b => a ^^^ b) x y s

/-- `ADD Vx, Vy` (R149). -/
def execAddReg (x y : Reg) (s : State) : Result := arith (fun a b => a + b) carryOut x y s

/-- `SUB Vx, Vy` (R150). -/
def execSub (x y : Reg) (s : State) : Result := arith (fun a b => a - b) noBorrow x y s

/-- `SHR Vx, Vy` (R151): V[Y] is not read. -/
def execShr (x _y : Reg) (s : State) : Result := shift (fun a => a >>> 1) shiftedOutRight x s

/-- `SUBN Vx, Vy` (R152). -/
def execSubn (x y : Reg) (s : State) : Result := arith (fun a b => b - a) (fun a b => noBorrow b a) x y s

/-- `SHL Vx, Vy` (R153): V[Y] is not read. -/
def execShl (x _y : Reg) (s : State) : Result := shift (fun a => a <<< 1) shiftedOutLeft x s

/-- `RND Vx, nn` (R154). -/
def execRnd (x : Reg) (nn : Byte) (s : State) : Result :=
  drawByte s fun r t => .next ((t.setReg x (combineRandom s.cfg.randCombine r nn)).advance 2)

end Sys2Proof.Machine
end

