-- ==== Sys2Proof/Machine/Control.lean ====
section
/-! DEFINITION. Control transfer (41_control_flow.md): 00EE, 1NNN, 2NNN, 3XNN, 4XNN, 5XY0, 9XY0, BNNN. A target is not checked
when it is set; the fetch of the next cycle is what faults (R120). -/

namespace Sys2Proof.Machine

/-- `RET` (R121): the entry is the call's own address, so execution resumes 2 above it. -/
def execRet (s : State) : Result := popReturn s fun a t => .next (t.setPc (a + 2))

/-- `JP nnn` (R122). -/
def execJp (nnn : BitVec 12) (s : State) : Result := .next (s.setPc (addrOf nnn))

/-- `CALL nnn` (R123): the pushed value is the call's own address. -/
def execCall (nnn : BitVec 12) (s : State) : Result := pushReturn s fun t => .next (t.setPc (addrOf nnn))

/-- `SE Vx, nn` (R124). -/
def execSeImm (x : Reg) (nn : Byte) (s : State) : Result := needReg s x fun a => .next (s.skipIf (a == nn))

/-- `SNE Vx, nn` (R125). -/
def execSneImm (x : Reg) (nn : Byte) (s : State) : Result := needReg s x fun a => .next (s.skipIf (a != nn))

/-- `SE Vx, Vy` (R126). -/
def execSeReg (x y : Reg) (s : State) : Result :=
  needReg s x fun a => needReg s y fun b => .next (s.skipIf (a == b))

/-- `SNE Vx, Vy` (R127). -/
def execSneReg (x y : Reg) (s : State) : Result :=
  needReg s x fun a => needReg s y fun b => .next (s.skipIf (a != b))

/-- `JP V0, nnn` (R128): the offset register is always V0. -/
def execJpV0 (nnn : BitVec 12) (s : State) : Result :=
  needReg s 0 fun a => .next (s.setPc (addrOf nnn + zext16 a))

end Sys2Proof.Machine
end

