-- ==== Sys2Proof/Machine/Index.lean ====
section
/-! DEFINITION. The index register and memory transfer (43_index_memory.md): ANNN, FX1E, FX29, FX33, FX55, FX65. The only
addressing mode is I + k, computed without wrap-around; I is never modified by an access. -/

namespace Sys2Proof.Machine

/-- `LD I, nnn` (R170). -/
def execLdI (nnn : BitVec 12) (s : State) : Result := .next ((s.setI (addrOf nnn)).advance 2)

/-- `ADD I, Vx` (R171). -/
def execAddIX (x : Reg) (s : State) : Result :=
  needI s fun i => needReg s x fun a => .next ((s.setI (i + zext16 a)).advance 2)

/-- `LD F, Vx` (R172): V[X] is not masked. -/
def execLdFX (x : Reg) (s : State) : Result :=
  needReg s x fun a => .next ((s.setI (zext16 a * 5)).advance 2)

/-- `LD B, Vx` (R173). -/
def execLdBX (x : Reg) (s : State) : Result :=
  needReg s x fun a => needI s fun i => memWrite s i.toNat (bcdDigits a) fun t => .next (t.advance 2)

/-- `LD [I], Vx` (R174): V0 to V[X] inclusive. -/
def execLdMemX (x : Reg) (s : State) : Result :=
  needI s fun i => needRegs s (regsUpTo x) fun bs => memWrite s i.toNat bs fun t => .next (t.advance 2)

/-- `LD Vx, [I]` (R175): V0 to V[X] inclusive. -/
def execLdXMem (x : Reg) (s : State) : Result :=
  needI s fun i => memRead s i.toNat (x.val + 1) fun bs =>
    .next ((s.setRegs ((regsUpTo x).zip bs)).advance 2)

end Sys2Proof.Machine
end

