-- ==== Sys2Proof/Machine/Keypad.lean ====
section
/-! DEFINITION. The keypad and timer instructions (44_keypad_timers.md): EX9E, EXA1, FX0A, FX07, FX15, FX18. -/

namespace Sys2Proof.Machine

/-- `SKP Vx` (R191). -/
def execSkp (x : Reg) (s : State) : Result :=
  keyQuery s fun key t => needReg t x fun a => .next (t.skipIf (keyMatches key a))

/-- `SKNP Vx` (R192). -/
def execSknp (x : Reg) (s : State) : Result :=
  keyQuery s fun key t => needReg t x fun a => .next (t.skipIf (!keyMatches key a))

/-- `LD Vx, DT` (R194): DT before this cycle's decrement. -/
def execLdXDt (x : Reg) (s : State) : Result := needDt s fun d => .next ((s.setReg x d).advance 2)

/-- What FX0A makes of the queried key: without one it ends with success and PC unchanged (Retry, R193). -/
def storeKey (x : Reg) (key : Option KeyCode) (s : State) : Result :=
  match key with
  | none => .next s
  | some c => .next ((s.setReg x (BitVec.ofNat 8 c.val)).advance 2)

/-- `LD Vx, K` (R193). -/
def execLdXK (x : Reg) (s : State) : Result := keyQuery s (storeKey x)

/-- `LD DT, Vx` (R195). -/
def execLdDtX (x : Reg) (s : State) : Result := needReg s x fun a => .next ((s.setDt a).advance 2)

/-- `LD ST, Vx` (R196). -/
def execLdStX (x : Reg) (s : State) : Result := needReg s x fun a => .next ((s.setSt a).advance 2)

end Sys2Proof.Machine
end

