-- ==== Sys2Proof/Machine/Step.lean ====
section
/-! DEFINITION. One step of the machine: a cycle (R210), or the part of it up to or from a host answer (log 4, log 12); and one
clock tick. -/

namespace Sys2Proof.Machine

/-- One cycle, with `exec` as Execute (R210), or the part of it that a host answer divides (log 4, log 12). -/
def step (s : State) : Host.Outcome State Fault Refusal := cycle exec s

/-- One clock tick as the host sees it, with the status in Run (R8 "tick" and "status", R210, R213). -/
def tick (s : State) : State := tickWith step s

/-- The state whose next step runs the instruction that the opcode-table number stands for. -/
def State.withFetchWord (s : State) (nbits w : Nat) : State := s.placeCode (bytesOfWord (tableWord nbits w))

end Sys2Proof.Machine
end

