-- ==== Sys2Proof/Machine/Launch.lean ====
section
/-! DEFINITION. What the host does to the machine between steps (R5, R8, 00_scope.md): the stop request, its answers, and the
program load before the first tick with the launch premises (70_reset_and_hazards.md). -/

namespace Sys2Proof.Machine

/-- The stop request sets the latch (R33, R217). -/
def State.requestStop (s : State) : State := { s with stopReq := true }

/-- The host answers the oldest unanswered getKey request, or readies an answer for a later one (R8). -/
def State.answerKey (s : State) (a : KeyAnswer) : State := s.setKeypad { s.keypad with queue := s.keypad.queue ++ [a] }

/-- The host readies a render answer (R8). -/
def State.answerRender (s : State) (a : DisplayAnswer) : State :=
  s.setDisplay { s.display with queue := s.display.queue ++ [a] }

/-- The host readies a random byte (R8). -/
def State.supplyRandom (s : State) (b : Byte) : State := s.setRandom { s.random with queue := s.random.queue ++ [b] }

/-- What Load answers (R243). -/
inductive LoadResult where
  /-- The image is in memory; `count` is the number of bytes written. -/
  | loaded (s : State) (count : Nat)
  /-- LoadOverflow: no byte is written (R221, R243). -/
  | loadOverflow
deriving DecidableEq, Repr

/-- Load(image) (R243). -/
def load (s : State) (image : List Byte) : LoadResult :=
  if 4096 - s.cfg.loadOffset.toNat < image.length then .loadOverflow
  else .loaded (s.setMem (Memory.writeBytes s.cfg.font s.mem s.cfg.loadOffset.toNat image)) image.length

/-- What becomes of a launch (R221, R243). -/
inductive LaunchResult where
  | started (s : State)
  /-- The image does not fit: the machine is never started (R221). -/
  | loadOverflow
  /-- A LOAD_OFFSET below 0x050 is refused (R243, U14 of 93_implementation_defined.md); that the other parameters outside R7's
  ranges are too, a LOAD_OFFSET above 0xFFF and a CLOCK_HZ of 0, is the model's choice (DESIGN CHOICE, log 26). -/
  | offsetRefused
deriving DecidableEq, Repr

/-- Creation, then the load (R240, R243, R245). -/
def launch (p : Params) (image : List Byte) : LaunchResult :=
  if p.wf then
    match load (State.create p) image with
    | .loaded s _ => .started s
    | .loadOverflow => .loadOverflow
  else .offsetRefused

/-! ### The launch premises of R246 -/

/-- Mem[0x000..0x04F] = FONT. -/
def FontLoaded (s : State) : Prop := ∀ a : Fin 80, s.byteAt a.val = s.cfg.font.get a

/-- Every byte of 0x050..0xFFF outside the image is 0. -/
def ZeroElsewhere (image : List Byte) (s : State) : Prop :=
  ∀ a : Nat, 0x050 ≤ a → a ≤ 0xFFF →
    (a < s.cfg.loadOffset.toNat ∨ s.cfg.loadOffset.toNat + image.length ≤ a) → s.byteAt a = 0

/-- The image stands at LOAD_OFFSET. -/
def ImageAt (image : List Byte) (s : State) : Prop :=
  ∀ (k : Nat) (h : k < image.length), s.byteAt (s.cfg.loadOffset.toNat + k) = image[k]

/-- PC = LOAD_OFFSET. -/
def EntryAt (s : State) : Prop := s.pc = s.cfg.loadOffset

/-- V, I, DT, ST, SP, Stack, Pix as R37 gives them: V, I, DT and ST are 0 under UNINIT_POLICY = Zero and have no value under
Fault, where their written bits, 0 here, make a read of them fault (R38). -/
def CleanRegs (s : State) : Prop :=
  (s.cfg.uninit = .zero → (∀ x : Reg, s.reg x = 0) ∧ s.i = 0 ∧ s.dt = 0 ∧ s.st = 0) ∧
    s.sp = 0 ∧ (∀ j : Fin 16, s.stackEntry j.val = 0) ∧
    (∀ (x : Fin 64) (y : Fin 32), Pixels.at s.pix x.val y.val = false) ∧ ∀ el : Element, s.written.has el = false

/-- Run = Running, StopReq = 0. -/
def NotStopped (s : State) : Prop := s.run = .running ∧ s.stopReq = false

end Sys2Proof.Machine
end

