-- ==== Sys2Proof/Safety.lean ====
section
/-! DEFINITION. The terms in which claims about the machine are made: the parts of the state and what leaves them unchanged,
the invariant of every run, and how a run ends (R233, 60_exceptions.md). -/

namespace Sys2Proof.Machine

/-- The parts of the state, one per field. -/
inductive Part where
  | v
  | i
  | pc
  | sp
  | stack
  | dt
  | st
  | mem
  | pix
  | run
  | stopReq
  | written
  | cfg
  | keypad
  | display
  | random
  | draws
  | waiting
  | trace
deriving DecidableEq, Repr

/-- The part reads the same in both states; memory byte by byte, at every address. -/
def Part.same (p : Part) (s t : State) : Prop :=
  match p with
  | .v => ∀ x : Reg, t.reg x = s.reg x
  | .i => t.i = s.i
  | .pc => t.pc = s.pc
  | .sp => t.sp = s.sp
  | .stack => ∀ j : Fin 16, t.stackEntry j.val = s.stackEntry j.val
  | .dt => t.dt = s.dt
  | .st => t.st = s.st
  | .mem => ∀ a : Nat, t.byteAt a = s.byteAt a
  | .pix => ∀ (x : Fin 64) (y : Fin 32), Pixels.at t.pix x.val y.val = Pixels.at s.pix x.val y.val
  | .run => t.run = s.run
  | .stopReq => t.stopReq = s.stopReq
  | .written => ∀ el : Element, t.written.has el = s.written.has el
  | .cfg => t.cfg = s.cfg
  | .keypad => t.keypad = s.keypad
  | .display => t.display = s.display
  | .random => t.random = s.random
  | .draws => t.draws = s.draws
  | .waiting => t.waiting = s.waiting
  | .trace => t.trace = s.trace

/-- Every part but the named ones is unchanged: the frame of an instruction. -/
def SameBut (changed : List Part) (s t : State) : Prop := ∀ p : Part, p ∉ changed → p.same s t

/-- Every register but the named ones is unchanged. -/
def SameRegsBut (changed : List Reg) (s t : State) : Prop := ∀ x : Reg, x ∉ changed → t.reg x = s.reg x

/-- Every written bit but that of the named element is unchanged, and that one is 1 (R38). -/
def Marks (els : List Element) (s t : State) : Prop :=
  ∀ el : Element, t.written.has el = if el ∈ els then true else s.written.has el

/-- Every byte of memory outside `addr .. addr + n - 1` is unchanged. -/
def SameMemoryBut (addr n : Nat) (s t : State) : Prop :=
  ∀ a : Nat, (a < addr ∨ addr + n ≤ a) → t.byteAt a = s.byteAt a

/-- What holds of the machine in every state a run reaches. -/
structure State.Inv (s : State) : Prop where
  /-- Memory is in its canonical form (R31). -/
  mem_wf : Memory.wf s.cfg.font s.mem
  /-- SP indexes the stack: at most 15 calls are nested (R27). -/
  sp_le : s.sp.toNat ≤ 15
  /-- "Entry 0 is never written" (R27). -/
  entry_zero : s.stackEntry 0 = 0
  /-- A return address is the address of a fetched call (R53, R123). -/
  stack_le : ∀ j : Fin 16, (s.stackEntry j.val).toNat ≤ 0xFFE
  /-- "No rule needs PC to wrap at 16 bits" (R24). -/
  pc_le : s.pc.toNat ≤ 0x10FE
  /-- A suspended core is inside an instruction that was fetched at PC (R23, R53). -/
  waiting_pc : s.waiting ≠ none → s.pc.toNat ≤ 0xFFE
  /-- The parameters are in R7's ranges. -/
  cfg_wf : s.cfg.wf

/-- A run has ended (R233). -/
def State.Ended (s : State) : Prop := s.run ≠ .running

/-- A good run has ended (R233): Stopped(Clean). -/
def State.GoodEnd (s : State) : Prop := s.run = .stoppedClean

/-- A failed run (R214, R233): Stopped(Error f). Nothing else of its state is a result. -/
def State.FailedWith (s : State) (f : Fault) : Prop := s.run = .stoppedError f

/-- The numeric code of R212, the spec's own numbering. -/
def Fault.code : Fault → Nat
  | .unknownOpcode _ _ => 1
  | .keypadFailure _ _ => 2
  | .memoryOutOfRange _ _ => 3
  | .stackOverflow _ => 4
  | .stackUnderflow _ => 5
  | .displayFailure _ _ => 6
  | .uninitRead _ _ => 7

/-- The PC of a fault record (R212). -/
def Fault.pc : Fault → Word
  | .unknownOpcode _ pc => pc
  | .keypadFailure _ pc => pc
  | .memoryOutOfRange _ pc => pc
  | .stackOverflow pc => pc
  | .stackUnderflow pc => pc
  | .displayFailure _ pc => pc
  | .uninitRead _ pc => pc

/-- The state of an outcome changed; a fault or a refusal stays. -/
def mapNext (f : State → State) : Result → Result
  | .next t => .next (f t)
  | .fault e => .fault e
  | .refused r => .refused r

end Sys2Proof.Machine
end

