-- ==== Sys2Proof/Certificates/Slice0/Terms.lean ====
section
/-! DEFINITION. The terms of this slice's statements: the opcode table as rows of mask and pattern, the tables of what an
instruction reads, may change and may raise, and the shapes of an instruction's effect. -/

namespace Sys2Proof.Machine

/-! ### The opcode table (spec/opcode_table.json), its fields by arithmetic on the word -/

/-- Bits 11:8 of a word. -/
def xOf (w : Word) : Reg := Fin.ofNat 16 (w.toNat / 256)

/-- Bits 7:4 of a word. -/
def yOf (w : Word) : Reg := Fin.ofNat 16 (w.toNat / 16)

/-- Bits 3:0 of a word. -/
def nOf (w : Word) : Nat := w.toNat % 16

/-- Bits 7:0 of a word. -/
def nnOf (w : Word) : Byte := BitVec.ofNat 8 w.toNat

/-- Bits 11:0 of a word. -/
def nnnOf (w : Word) : BitVec 12 := BitVec.ofNat 12 w.toNat

/-- A row of the table: the bits that are fixed, their values, and the instruction the word then is. -/
structure OpcodeRow where
  mask : Word
  pattern : Word
  instr : Word → Instr

/-- The 34 rows, in the table's order. -/
def opcodeTable : List OpcodeRow :=
  [⟨0xFFFF, 0x00E0, fun _ => .cls⟩,
   ⟨0xFFFF, 0x00EE, fun _ => .ret⟩,
   ⟨0xF000, 0x1000, fun w => .jp (nnnOf w)⟩,
   ⟨0xF000, 0x2000, fun w => .call (nnnOf w)⟩,
   ⟨0xF000, 0x3000, fun w => .seImm (xOf w) (nnOf w)⟩,
   ⟨0xF000, 0x4000, fun w => .sneImm (xOf w) (nnOf w)⟩,
   ⟨0xF00F, 0x5000, fun w => .seReg (xOf w) (yOf w)⟩,
   ⟨0xF000, 0x6000, fun w => .ldImm (xOf w) (nnOf w)⟩,
   ⟨0xF000, 0x7000, fun w => .addImm (xOf w) (nnOf w)⟩,
   ⟨0xF00F, 0x8000, fun w => .ldReg (xOf w) (yOf w)⟩,
   ⟨0xF00F, 0x8001, fun w => .orReg (xOf w) (yOf w)⟩,
   ⟨0xF00F, 0x8002, fun w => .andReg (xOf w) (yOf w)⟩] ++
  [⟨0xF00F, 0x8003, fun w => .xorReg (xOf w) (yOf w)⟩,
   ⟨0xF00F, 0x8004, fun w => .addReg (xOf w) (yOf w)⟩,
   ⟨0xF00F, 0x8005, fun w => .sub (xOf w) (yOf w)⟩,
   ⟨0xF00F, 0x8006, fun w => .shr (xOf w) (yOf w)⟩,
   ⟨0xF00F, 0x8007, fun w => .subn (xOf w) (yOf w)⟩,
   ⟨0xF00F, 0x800E, fun w => .shl (xOf w) (yOf w)⟩,
   ⟨0xF00F, 0x9000, fun w => .sneReg (xOf w) (yOf w)⟩,
   ⟨0xF000, 0xA000, fun w => .ldI (nnnOf w)⟩,
   ⟨0xF000, 0xB000, fun w => .jpV0 (nnnOf w)⟩,
   ⟨0xF000, 0xC000, fun w => .rnd (xOf w) (nnOf w)⟩,
   ⟨0xF000, 0xD000, fun w => .drw (xOf w) (yOf w) (nOf w)⟩] ++
  [⟨0xF0FF, 0xE09E, fun w => .skp (xOf w)⟩,
   ⟨0xF0FF, 0xE0A1, fun w => .sknp (xOf w)⟩,
   ⟨0xF0FF, 0xF007, fun w => .ldXDt (xOf w)⟩,
   ⟨0xF0FF, 0xF00A, fun w => .ldXK (xOf w)⟩,
   ⟨0xF0FF, 0xF015, fun w => .ldDtX (xOf w)⟩,
   ⟨0xF0FF, 0xF018, fun w => .ldStX (xOf w)⟩,
   ⟨0xF0FF, 0xF01E, fun w => .addIX (xOf w)⟩,
   ⟨0xF0FF, 0xF029, fun w => .ldFX (xOf w)⟩,
   ⟨0xF0FF, 0xF033, fun w => .ldBX (xOf w)⟩,
   ⟨0xF0FF, 0xF055, fun w => .ldMemX (xOf w)⟩,
   ⟨0xF0FF, 0xF065, fun w => .ldXMem (xOf w)⟩]

/-- The word has the row's fixed bits. -/
def OpcodeRow.Matches (r : OpcodeRow) (w : Word) : Prop := w &&& r.mask = r.pattern

/-! ### What an instruction reads, may change and may raise -/

/-- The registers, I and DT that an instruction reads (R22, R25, R28 of 10_state.md). -/
def readSet : Instr → List Element
  | .cls | .ret | .jp _ | .call _ | .ldImm _ _ | .ldI _ | .rnd _ _ | .ldXK _ => []
  | .seImm x _ | .sneImm x _ | .addImm x _ | .shr x _ | .shl x _ | .skp x | .sknp x | .ldDtX x | .ldStX x | .ldFX x => [.v x]
  | .seReg x y | .sneReg x y | .orReg x y | .andReg x y | .xorReg x y | .addReg x y | .sub x y | .subn x y => [.v x, .v y]
  | .ldReg _ y => [.v y]
  | .jpV0 _ => [.v 0]
  | .drw x y _ => [.v x, .v y, .i]
  | .ldXDt _ => [.dt]
  | .addIX x | .ldBX x => [.v x, .i]
  | .ldMemX x => .i :: (regsUpTo x).map .v
  | .ldXMem _ => [.i]

/-- The parts of the state an instruction's execution may change (R22 to R30, R55, R106; the model's own fields included). -/
def mayChange : Instr → List Part
  | .cls => [.pix, .pc]
  | .ret => [.pc, .sp]
  | .call _ => [.pc, .sp, .stack]
  | .jp _ | .jpV0 _ | .seImm _ _ | .sneImm _ _ | .seReg _ _ | .sneReg _ _ => [.pc]
  | .ldImm _ _ | .addImm _ _ | .ldReg _ _ | .orReg _ _ | .andReg _ _ | .xorReg _ _ | .ldXDt _ | .ldXMem _ =>
    [.v, .written, .pc]
  | .addReg _ _ | .sub _ _ | .shr _ _ | .subn _ _ | .shl _ _ => [.v, .written, .pc, .draws]
  | .rnd _ _ => [.v, .written, .pc, .random, .draws]
  | .ldI _ | .addIX _ | .ldFX _ => [.i, .written, .pc]
  | .ldBX _ | .ldMemX _ => [.mem, .pc]
  | .drw _ _ _ => [.pix, .v, .written, .pc, .display, .waiting, .trace]
  | .skp _ | .sknp _ => [.pc, .keypad, .run, .waiting]
  | .ldXK _ => [.v, .written, .pc, .keypad, .run, .waiting]
  | .ldDtX _ => [.dt, .written, .pc]
  | .ldStX _ => [.st, .written, .pc]

/-- The registers an instruction may write, VF as the flag included (the column "writes" of R22). -/
def destRegs : Instr → List Reg
  | .cls | .ret | .jp _ | .call _ | .jpV0 _ | .seImm _ _ | .sneImm _ _ | .seReg _ _ | .sneReg _ _ | .ldI _ | .addIX _
  | .ldFX _ | .ldBX _ | .ldMemX _ | .skp _ | .sknp _ | .ldDtX _ | .ldStX _ => []
  | .ldImm x _ | .addImm x _ | .ldReg x _ | .orReg x _ | .andReg x _ | .xorReg x _ | .rnd x _ | .ldXDt x | .ldXK x => [x]
  | .addReg x _ | .sub x _ | .shr x _ | .subn x _ | .shl x _ => [x, vf]
  | .drw _ _ _ => [vf]
  | .ldXMem x => regsUpTo x

/-- The codes of the faults whose row of R212 names the instruction, UninitRead (7) included where it reads an element. -/
def mayRaise : Instr → List Nat
  | .cls | .jp _ | .ldImm _ _ | .ldI _ | .rnd _ _ => []
  | .ret => [5]
  | .call _ => [4]
  | .ldXK _ => [2]
  | .skp _ | .sknp _ => [2, 7]
  | .drw _ _ _ => [3, 6, 7]
  | .ldBX _ | .ldMemX _ | .ldXMem _ => [3, 7]
  | .seImm _ _ | .sneImm _ _ | .addImm _ _ | .shr _ _ | .shl _ _ | .ldDtX _ | .ldStX _ | .ldFX _ | .seReg _ _ | .sneReg _ _
  | .orReg _ _ | .andReg _ _ | .xorReg _ _ | .addReg _ _ | .sub _ _ | .subn _ _ | .ldReg _ _ | .jpV0 _ | .ldXDt _
  | .addIX _ => [7]

/-- The instructions that make a key query (R190). -/
def isKeyQuery : Instr → Bool
  | .skp _ | .sknp _ | .ldXK _ => true
  | .cls | .ret | .jp _ | .call _ | .seImm _ _ | .sneImm _ _ | .seReg _ _ | .ldImm _ _ | .addImm _ _ | .ldReg _ _
  | .orReg _ _ | .andReg _ _ | .xorReg _ _ | .addReg _ _ | .sub _ _ | .shr _ _ | .subn _ _ | .shl _ _ | .sneReg _ _
  | .ldI _ | .jpV0 _ | .rnd _ _ | .drw _ _ _ | .ldXDt _ | .ldDtX _ | .ldStX _ | .addIX _ | .ldFX _ | .ldBX _ | .ldMemX _
  | .ldXMem _ => false

/-! ### A cycle about to run an instruction -/

/-- The big-endian word at PC (R54, R70). -/
def wordAtPc (s : State) : Word := wordOfBytes (s.byteAt s.pc.toNat) (s.byteAt (s.pc.toNat + 1))

/-- The next step fetches: no stop request is due to be observed (R216), or a key query is still to be answered, and no render
request is (R105). -/
abbrev TakesInstruction (s : State) : Prop :=
  s.run = .running ∧ ((s.waiting = none ∧ s.stopReq = false) ∨ s.waiting = some .getKey)

/-- And both bytes at PC exist (R53). -/
abbrev FetchesNext (s : State) : Prop := TakesInstruction s ∧ s.pc.toNat ≤ 0xFFE

/-- And the word at PC decodes to this instruction. -/
abbrev AboutToRun (s : State) (i : Instr) : Prop := FetchesNext s ∧ decodeWord (wordAtPc s) = .instr i

/-- Every element of the list may be read. -/
abbrev CanRead (els : List Element) (s : State) : Prop := ∀ el ∈ els, s.readable el = true

/-- The core runs and is not inside an unanswered request. -/
abbrev Active (s : State) : Prop := s.run = .running ∧ s.waiting = none

/-! ### Shapes of an instruction's effect -/

/-- V[x] becomes b, and nothing else changes but x's written bit and PC, which becomes A + 2. -/
def WritesReg (x : Reg) (b : Byte) (s t : State) : Prop :=
  t.reg x = b ∧ SameRegsBut [x] s t ∧ Marks [.v x] s t ∧ t.pc = s.pc + 2 ∧ SameBut [.v, .written, .pc] s t

/-- The result and the flag of R141, and nothing else changes but the written bits and PC, which becomes A + 2. Under
VF_ORDER = Any nothing is said of VF when it is the destination. -/
def WritesResultAndFlag (x : Reg) (result flag : Byte) (s t : State) : Prop :=
  (x ≠ vf → t.reg x = result ∧ t.reg vf = flag ∧ t.draws = s.draws) ∧
  (x = vf → s.cfg.vfOrder = .flagWins → t.reg vf = flag ∧ t.draws = s.draws) ∧
  (x = vf → s.cfg.vfOrder = .resultWins → t.reg vf = result ∧ t.draws = s.draws) ∧
  SameRegsBut [x, vf] s t ∧ Marks [.v x, .v vf] s t ∧ t.pc = s.pc + 2 ∧ SameBut [.v, .written, .pc, .draws] s t

/-- I becomes w, and nothing else changes but its written bit and PC, which becomes A + 2. -/
def WritesI (w : Word) (s t : State) : Prop :=
  t.i = w ∧ Marks [.i] s t ∧ t.pc = s.pc + 2 ∧ SameBut [.i, .written, .pc] s t

/-- What an instruction with a key query does on the answers that do not continue it: KeypadFailure on `Error e`, and on
`NoKey` under NOKEY_POLICY = Failure; a clean end on `Quit`, with no change but the answer taken (R190, R218, R219; log 23). -/
def KeyQueryStops (i : Instr) (s : State) (rest : Port KeyAnswer) : Prop :=
  (∀ e, s.keypad.ask = some (.error e, rest) → exec i s = .fault (.keypadFailure (.host e) s.pc)) ∧
  (s.keypad.ask = some (.noKey, rest) → s.cfg.noKey = .failure → exec i s = .fault (.keypadFailure .noKey s.pc)) ∧
  (s.keypad.ask = some (.quit, rest) →
    ∃ t, exec i s = .next t ∧ t.run = .stoppedClean ∧ t.keypad = rest ∧ SameBut [.run, .keypad] s t)

/-- Only PC changes: A + 4 if the condition holds, else A + 2. -/
def Skips (c : Prop) (s t : State) : Prop :=
  (c → t.pc = s.pc + 4) ∧ (¬c → t.pc = s.pc + 2) ∧ SameBut [.pc] s t

/-- The first address above 0xFFF of an access that starts at `addr`. -/
def firstOutOfRange (addr : Nat) : Nat := max 0x1000 addr

/-! ### Sprites -/

/-- Does the sprite put a 1 on column px, row py, when it starts at column vx mod 64, row vy mod 32 and wraps (R102)? Row r of
the sprite lies on grid row (vy + r) mod 32, and bit 7 - c of it on column (vx + c) mod 64. -/
def spriteBit (rows : List Byte) (vx vy : Byte) (px : Fin 64) (py : Fin 32) : Bool :=
  let c := (px.val + 64 - vx.toNat % 64) % 64
  let r := (py.val + 32 - vy.toNat % 32) % 32
  decide (c < 8) && (rows.getD r 0).getLsbD (7 - c)

/-- Some set pixel is covered by a 1 of the sprite, so that it is turned off (R101, R103). -/
def Collision (rows : List Byte) (vx vy : Byte) (p : Pixels) : Prop :=
  ∃ (px : Fin 64) (py : Fin 32), Pixels.at p px.val py.val = true ∧ spriteBit rows vx vy px py = true

/-- The n bytes at I. -/
def spriteRows (s : State) (n : Nat) : List Byte := (List.range n).map fun j => s.byteAt (s.i.toNat + j)

/-- DXYN's drawing and its render request (R102, R103, R105, R106): every pixel XORed with the sprite's bit for it at the old
V[X] and V[Y], VF 1 or 0 by the collision, and one request recorded with the drawn buffer. -/
def DrawsSprite (x y : Reg) (n : Nat) (s t : State) : Prop :=
  (∀ (px : Fin 64) (py : Fin 32), Pixels.at t.pix px.val py.val =
    (Pixels.at s.pix px.val py.val ^^ spriteBit (spriteRows s n) (s.reg x) (s.reg y) px py)) ∧
  (Collision (spriteRows s n) (s.reg x) (s.reg y) s.pix → t.reg vf = 1) ∧
  (¬ Collision (spriteRows s n) (s.reg x) (s.reg y) s.pix → t.reg vf = 0) ∧
  SameRegsBut [vf] s t ∧ Marks [.v vf] s t ∧ t.trace = .render t.pix :: s.trace

/-- The operands of DXYN may be read and its sprite bytes exist (R38, R51). -/
abbrev CanDraw (x y : Reg) (n : Nat) (s : State) : Prop :=
  CanRead [.v x, .v y, .i] s ∧ (n = 0 ∨ s.i.toNat + n - 1 ≤ 0xFFF)

end Sys2Proof.Machine
end

