-- ==== Sys2Proof/Certificates/Slice0/Obligations.lean ====
section
/-! DEFINITION. The statements about the machine, for the provers. Each docstring names the rule of spec/ it formalises. -/

open Sys2Proof Sys2Proof.Machine

/-! ### Encoding -/

/-- For every well-formed instruction, decoding the word it encodes to gives it back, and so do its two bytes in memory order
with anything after them (R54, R71, R74, R75). -/
def Obligations.DecodeInvertsEncode : Prop :=
  ∀ (i : Instr) (rest : List Byte), WellFormed i →
    decodeWord (encode i) = .instr i ∧ decodeBytes (encodeBytes i ++ rest) = .instr i

/-- A word that decodes to an instruction is the word that instruction encodes to, and the instruction is well-formed: no bit of
a word is dropped (R74, R75). -/
def Obligations.EncodeInvertsDecode : Prop :=
  ∀ (w : Word) (i : Instr), decodeWord w = .instr i → WellFormed i ∧ encode i = w

/-- R75 and R78 against spec/opcode_table.json: a word with a row's fixed bits decodes to that row's instruction with the row's
fields, no word has the fixed bits of two rows, and a word that has none is rejected as unknown, with the whole word. -/
def Obligations.DecodeFollowsOpcodeTable : Prop :=
  (∀ (r : OpcodeRow) (w : Word), r ∈ opcodeTable → r.Matches w → decodeWord w = .instr (r.instr w)) ∧
  (∀ (j k : Fin 34) (w : Word) (r q : OpcodeRow), opcodeTable[j.val]? = some r → opcodeTable[k.val]? = some q →
    r.Matches w → q.Matches w → j = k) ∧
  (∀ w : Word, (∀ r ∈ opcodeTable, ¬ r.Matches w) → decodeWord w = .rejected (.unknownOpcode w))

/-- The source's example word (R81), a word of each family written out from its pattern (R74), and unknown words of R77. -/
def Obligations.SampleWordsDecode : Prop :=
  decodeWord 0xC0FE = .instr (.rnd 0 0xFE) ∧
  decodeWord 0x00E0 = .instr .cls ∧ decodeWord 0xD125 = .instr (.drw 1 2 5) ∧
  decodeWord 0x00EE = .instr .ret ∧ decodeWord 0x2ABC = .instr (.call 0xABC) ∧
  decodeWord 0x5120 = .instr (.seReg 1 2) ∧ decodeWord 0x8F14 = .instr (.addReg 15 1) ∧
  decodeWord 0x801E = .instr (.shl 0 1) ∧ decodeWord 0xF355 = .instr (.ldMemX 3) ∧
  decodeWord 0xE1A1 = .instr (.sknp 1) ∧ decodeWord 0xF40A = .instr (.ldXK 4) ∧
  decodeWord 0x01E0 = .rejected (.unknownOpcode 0x01E0) ∧ decodeWord 0x5121 = .rejected (.unknownOpcode 0x5121) ∧
  decodeWord 0x8128 = .rejected (.unknownOpcode 0x8128) ∧ decodeWord 0xFFFF = .rejected (.unknownOpcode 0xFFFF)

/-! ### Creation, load and launch -/

/-- R37, for every value of the parameters: what creation leaves in each element of the spec's state (under UNINIT_POLICY =
Fault V, I, DT and ST have no value, their written bits being 0). The machine after reset is the one created with the spec's
values of R7. -/
def Obligations.CreationValues : Prop :=
  State.reset = State.create specParams ∧
  ∀ p : Params,
    (∀ a : Fin 80, (State.create p).byteAt a.val = p.font.get a) ∧
    (∀ a : Nat, 0x050 ≤ a → a ≤ 0xFFF → (State.create p).byteAt a = 0) ∧
    EntryAt (State.create p) ∧ CleanRegs (State.create p) ∧ NotStopped (State.create p) ∧ (State.create p).cfg = p

/-- R243: a load that does not fit answers LoadOverflow; one that fits writes the image verbatim from LOAD_OFFSET, answers its
length, and changes no other byte and nothing else; a launch with LOAD_OFFSET below 0x050 is refused. -/
def Obligations.LoadWritesImage : Prop :=
  (∀ (s : State) (image : List Byte),
    (4096 - s.cfg.loadOffset.toNat < image.length → load s image = .loadOverflow) ∧
    (image.length ≤ 4096 - s.cfg.loadOffset.toNat →
      ∃ t, load s image = .loaded t image.length ∧ ImageAt image t ∧
        SameMemoryBut s.cfg.loadOffset.toNat image.length s t ∧ SameBut [.mem] s t)) ∧
  ∀ (p : Params) (image : List Byte), p.loadOffset.toNat < 0x050 → launch p image = .offsetRefused

/-- A launch whose parameters are in R7's ranges and whose image fits starts a machine that meets the launch premises of R246;
one whose image does not fit answers LoadOverflow and starts none (R221, R243); one whose parameters are out of range is
refused: for a LOAD_OFFSET below 0x050 that is R243, for one above 0xFFF and for a CLOCK_HZ of 0 the model's choice (log 26). -/
def Obligations.LaunchMeetsPremises : Prop :=
  ∀ (p : Params) (image : List Byte),
    (p.wf → image.length ≤ 4096 - p.loadOffset.toNat →
      ∃ s, launch p image = .started s ∧ s.cfg = p ∧ FontLoaded s ∧ ZeroElsewhere image s ∧ ImageAt image s ∧
        EntryAt s ∧ CleanRegs s ∧ NotStopped s) ∧
    (¬ p.wf → launch p image = .offsetRefused) ∧
    (p.wf → 4096 - p.loadOffset.toNat < image.length → launch p image = .loadOverflow)

/-! ### The invariant -/

/-- The machine after reset, and every launched machine, meets the invariant of `State.Inv`. -/
def Obligations.LaunchMeetsInvariant : Prop :=
  State.reset.Inv ∧ ∀ (p : Params) (image : List Byte) (s : State), launch p image = .started s → s.Inv

/-- Every step keeps the invariant: memory stays in its canonical form inside the 4096 bytes (R31), SP stays at most 15 and
entry 0 of the stack is never written (R27), stack entries stay addresses of fetched calls (R53, R123), PC stays at most
0x10FE (R24), and at most 0xFFE while an instruction waits for the host (R53), the parameters stay in R7's ranges. -/
def Obligations.StepKeepsInvariant : Prop :=
  ∀ s t : State, s.Inv → step s = .next t → t.Inv

/-! ### The cycle -/

/-- R210: where the core runs, no stop request is due and the two bytes at PC decode to an instruction, a step is `exec` of that
instruction in that state (out of any suspension), then the timer decrement where the outcome is Success or Retry; a quit, and a
wait for the host, end the step without it, and a fault or a refusal of `exec` is that of the step. -/
def Obligations.StepRunsDecodedInstruction : Prop :=
  ∀ (s : State) (i : Instr), AboutToRun s i →
    (∀ t, exec i (s.setWaiting none) = .next t → Active t → step s = .next (timerDecrement t)) ∧
    (∀ t, exec i (s.setWaiting none) = .next t → ¬ Active t → step s = .next t) ∧
    (∀ f, exec i (s.setWaiting none) = .fault f → step s = .fault f) ∧
    (∀ r, exec i (s.setWaiting none) = .refused r → step s = .refused r)

/-- R53: a fetch reads the two bytes at PC and hands them over big-endian (R70) where PC is at most 0xFFE; a PC of 0xFFF or more
at fetch raises MemoryOutOfRange with the first byte out of range. -/
def Obligations.FetchReadsTwoBytesOrFaults : Prop :=
  ∀ s : State,
    (s.pc.toNat ≤ 0xFFE → ∀ k, fetch s k = k (wordAtPc s)) ∧
    (TakesInstruction s → 0xFFF ≤ s.pc.toNat →
      step s = .fault (.memoryOutOfRange (firstOutOfRange s.pc.toNat) s.pc))

/-- R76: a fetched word that has the fixed bits of no row of the opcode table raises UnknownOpcode with the whole word and the
PC, whatever else the state holds. -/
def Obligations.UnknownWordFaults : Prop :=
  ∀ s : State, FetchesNext s → (∀ r ∈ opcodeTable, ¬ r.Matches (wordAtPc s)) →
    step s = .fault (.unknownOpcode (wordAtPc s) s.pc)

/-- R223 and R224, with R38's rule for an unwritten timer: at the end of a cycle whose outcome is Success or Retry each readable
timer falls by one while it is non-zero, the cue is emitted exactly when ST goes from 1 to 0, and nothing else changes. `t` is
what the instruction left. -/
def Obligations.TimersDecrementAfterSuccess : Prop :=
  ∀ (s t : State) (i : Instr), AboutToRun s i → exec i (s.setWaiting none) = .next t → Active t →
    ∃ u, step s = .next u ∧
      (t.readable .dt = true → u.dt.toNat = t.dt.toNat - 1) ∧ (t.readable .dt = false → u.dt = t.dt) ∧
      (t.readable .st = true → u.st.toNat = t.st.toNat - 1) ∧ (t.readable .st = false → u.st = t.st) ∧
      (t.readable .st = true ∧ t.st = 1 → u.trace = .cue :: t.trace) ∧
      (¬ (t.readable .st = true ∧ t.st = 1) → u.trace = t.trace) ∧
      SameBut [.dt, .st, .trace] t u

/-- R32: Run is Running, Stopped(Clean) or Stopped(Error e), and Running at creation; once it is Stopped it never changes again,
and a stopped core runs no cycle. -/
def Obligations.StoppedCoreRunsNoCycle : Prop :=
  (∀ s : State, s.run = .running ∨ s.run = .stoppedClean ∨ ∃ e, s.run = .stoppedError e) ∧
  (∀ p : Params, (State.create p).run = .running) ∧
  (∀ s : State, s.Ended → step s = .next s ∧ tick s = s)

/-- A fault ends the run: Run becomes Stopped(Error f) with f the record, and no number of further ticks changes it (R213,
R233). Nothing is said of the rest of the state (R214). -/
def Obligations.FaultEndsRun : Prop :=
  ∀ (s : State) (f : Fault), step s = .fault f → ∀ n : Nat, ((tick^[n]) (tick s)).FailedWith f

/-- R217: a cycle that begins with the stop request set ends the run cleanly without fetching and changes nothing else; a
request that arrives while an instruction waits for the host leaves that instruction's cycle as it was; several requests are
the same as one. (The waiting mark is the model's own, log 4.) -/
def Obligations.StopRequestEndsRunCleanly : Prop :=
  (∀ s : State, s.run = .running → s.waiting = none → s.stopReq = true →
    ∃ t, step s = .next t ∧ t.GoodEnd ∧ SameBut [.run] s t) ∧
  (∀ s : State, s.waiting ≠ none → step s.requestStop = mapNext State.requestStop (step s)) ∧
  (∀ s : State, s.requestStop.requestStop = s.requestStop)

/-- R33: the stop latch is 0 at creation, the request sets it and changes nothing else, setting it when set changes nothing, no
step clears or sets it, and no instruction's execution depends on it: only the top of a cycle reads it. -/
def Obligations.StopLatchReadOnlyBetweenCycles : Prop :=
  (∀ p : Params, (State.create p).stopReq = false) ∧
  (∀ s : State, s.requestStop.stopReq = true ∧ SameBut [.stopReq] s s.requestStop) ∧
  (∀ s : State, s.stopReq = true → s.requestStop = s) ∧
  (∀ s t : State, step s = .next t → t.stopReq = s.stopReq) ∧
  (∀ (i : Instr) (s : State), exec i s.requestStop = mapNext State.requestStop (exec i s))

/-- R218: a `Quit` answer to a key query ends the run cleanly; the instruction makes no change and the timers are not
decremented. (That the host's answer is taken from the port is the model's choice, log 23.) -/
def Obligations.QuitEndsRunCleanly : Prop :=
  ∀ (s : State) (i : Instr) (rest : Port KeyAnswer), AboutToRun s i → isKeyQuery i = true →
    s.keypad.ask = some (.quit, rest) →
    ∃ t, step s = .next t ∧ t.GoodEnd ∧ t.keypad = rest ∧ t.waiting = none ∧ SameBut [.run, .keypad, .waiting] s t

/-- R190 and R232: while the host has not answered a key query the step keeps all state, the timers included, but for the mark
that the core waits; and when the answer comes the step is what it would have been with the answer at hand, also where a stop
request was made meanwhile (R216). -/
def Obligations.KeyWaitEndsWithTheAnswer : Prop :=
  ∀ (s : State) (i : Instr), AboutToRun s i → isKeyQuery i = true → s.keypad.ask = none →
    ∃ w, step s = .next w ∧ w.waiting = some .getKey ∧ SameBut [.waiting] s w ∧
      (∀ a : KeyAnswer, step (w.answerKey a) = step (s.answerKey a)) ∧
      (∀ a : KeyAnswer, s.stopReq = false → step (w.requestStop.answerKey a) = mapNext State.requestStop (step (s.answerKey a)))

/-! ### What all instructions keep -/

/-- What an instruction's execution may change, for all 34 (R22 to R30, R55, R106): memory is written by FX33 and FX55 alone,
pixels change by 00E0 and DXYN alone, the stack by 2NNN alone, SP by 2NNN and 00EE, DT and ST by FX15 and FX18, I by ANNN, FX1E
and FX29, a render is recorded by DXYN alone, and no register but the destinations of R22 changes. -/
def Obligations.OnlyNamedPartsChange : Prop :=
  ∀ (i : Instr) (s t : State), exec i s = .next t →
    SameBut (mayChange i) s t ∧ SameRegsBut (destRegs i) s t

/-- R212: which fault kinds each instruction raises, always with the instruction's own PC; a fault of a step carries the PC too,
and the answer to DXYN's render request can raise DisplayFailure (code 6) alone. -/
def Obligations.FaultRecordsByInstruction : Prop :=
  (∀ (i : Instr) (s : State) (f : Fault), exec i s = .fault f → f.code ∈ mayRaise i ∧ f.pc = s.pc) ∧
  (∀ (s : State) (f : Fault), step s = .fault f → f.pc = s.pc) ∧
  (∀ (s : State) (f : Fault), s.waiting = some .render → step s = .fault f → f.code = 6)

/-- With SP at most 15, as in every state a run reaches, no instruction and no step is refused: each execution ends with one of
the outcomes of R211. -/
def Obligations.NothingIsRefused : Prop :=
  (∀ (i : Instr) (s : State), s.sp.toNat ≤ 15 → ∀ r, exec i s ≠ .refused r) ∧
  (∀ s : State, s.sp.toNat ≤ 15 → ∀ r, step s ≠ .refused r)

/-- R38: under UNINIT_POLICY = Fault an instruction that reads an unwritten element raises UninitRead of such an element (a key
instruction once its query has an answer that continues it); under Zero nothing raises it. The reads are those of R22. Which
element is named where several are unwritten is left open here (log 11). -/
def Obligations.UnwrittenReadFaults : Prop :=
  (∀ (i : Instr) (s : State), isKeyQuery i = false → (∃ el ∈ readSet i, s.readable el = false) →
    ∃ el ∈ readSet i, s.readable el = false ∧ exec i s = .fault (.uninitRead el s.pc)) ∧
  (∀ (x : Reg) (s : State) (k : KeyCode) (rest : Port KeyAnswer), s.readable (.v x) = false →
    s.keypad.ask = some (.key k, rest) →
    exec (.skp x) s = .fault (.uninitRead (.v x) s.pc) ∧ exec (.sknp x) s = .fault (.uninitRead (.v x) s.pc)) ∧
  (∀ (s : State) (el : Element), s.readable el = false ↔ s.cfg.uninit = .fault ∧ s.written.has el = false) ∧
  (∀ (i : Instr) (s : State) (el : Element) (pc : Word), s.cfg.uninit = .zero → exec i s ≠ .fault (.uninitRead el pc))

/-- R38: a written bit becomes 1 with the first write and never goes back: after an instruction every element whose value it
changed is marked written, and every element that was stays so. -/
def Obligations.WrittenBitsTrackWrites : Prop :=
  ∀ (i : Instr) (s t : State), exec i s = .next t →
    (∀ el, s.written.has el = true → t.written.has el = true) ∧
    (∀ x : Reg, t.reg x ≠ s.reg x → t.written.has (.v x) = true) ∧
    (t.i ≠ s.i → t.written.has .i = true) ∧ (t.dt ≠ s.dt → t.written.has .dt = true) ∧
    (t.st ≠ s.st → t.written.has .st = true)

/-! ### Control transfer -/

/-- R122 and R128: a jump sets PC to NNN, or to NNN + V0 as a 16-bit sum that is not reduced modulo 4096; nothing else changes,
and the target is not checked. -/
def Obligations.JumpsSetPc : Prop :=
  ∀ (nnn : BitVec 12) (s : State),
    (decodeWord (encodeAddr 0x1 nnn) = .instr (.jp nnn) ∧
      ∃ t, exec (.jp nnn) s = .next t ∧ t.pc.toNat = nnn.toNat ∧ SameBut [.pc] s t) ∧
    decodeWord (encodeAddr 0xB nnn) = .instr (.jpV0 nnn) ∧
    (CanRead [.v 0] s →
      ∃ t, exec (.jpV0 nnn) s = .next t ∧ t.pc.toNat = nnn.toNat + (s.reg 0).toNat ∧ SameBut [.pc] s t)

/-- R123: a call with SP = 15 raises StackOverflow; with SP below 15 it pushes its own address in the entry above, and PC is
NNN. The other entries and everything else stay. -/
def Obligations.CallPushesOwnAddress : Prop :=
  ∀ (nnn : BitVec 12) (s : State),
    decodeWord (encodeAddr 0x2 nnn) = .instr (.call nnn) ∧
    (s.sp = 15 → exec (.call nnn) s = .fault (.stackOverflow s.pc)) ∧
    (s.sp.toNat < 15 →
      ∃ t, exec (.call nnn) s = .next t ∧ t.sp.toNat = s.sp.toNat + 1 ∧ t.stackEntry (s.sp.toNat + 1) = s.pc ∧
        (∀ j : Fin 16, j.val ≠ s.sp.toNat + 1 → t.stackEntry j.val = s.stackEntry j.val) ∧
        t.pc.toNat = nnn.toNat ∧ SameBut [.pc, .sp, .stack] s t)

/-- R121: a return with SP = 0 raises StackUnderflow; with SP in 1..15 PC becomes the entry Stack[SP] + 2 and SP falls by one.
The entry is not cleared; nothing else changes. -/
def Obligations.ReturnPopsEntry : Prop :=
  decodeWord 0x00EE = .instr .ret ∧
  ∀ s : State,
    (s.sp = 0 → exec .ret s = .fault (.stackUnderflow s.pc)) ∧
    (1 ≤ s.sp.toNat → s.sp.toNat ≤ 15 →
      ∃ t, exec .ret s = .next t ∧ t.pc = s.stackEntry s.sp.toNat + 2 ∧ t.sp.toNat + 1 = s.sp.toNat ∧
        SameBut [.pc, .sp] s t)

/-- The model's own stop: with SP above 15, a state no run reaches and to which no rule gives a meaning, CALL and RET are
refused by name (log 10). -/
def Obligations.StackPointerAboveFifteenRefused : Prop :=
  ∀ (nnn : BitVec 12) (s : State), 15 < s.sp.toNat →
    exec (.call nnn) s = .refused (.stackPointerOutOfRange s.sp) ∧ exec .ret s = .refused (.stackPointerOutOfRange s.sp)

/-- R129: a call at A with SP below 15, then any run of the callee that leaves SP and the pushed entry as the call left them,
then the return: it resumes at A + 2 with the SP from before the call. -/
def Obligations.CallThenReturnResumes : Prop :=
  ∀ (nnn : BitVec 12) (s t u : State), s.sp.toNat < 15 → exec (.call nnn) s = .next t →
    u.sp = t.sp → u.stackEntry (s.sp.toNat + 1) = t.stackEntry (s.sp.toNat + 1) →
    ∃ r, exec .ret u = .next r ∧ r.pc = s.pc + 2 ∧ r.sp = s.sp

/-- R124 and R125: the skips on an immediate. -/
def Obligations.SkipsOnImmediate : Prop :=
  ∀ (x : Reg) (nn : Byte) (s : State),
    decodeWord (encodeImm 0x3 x nn) = .instr (.seImm x nn) ∧ decodeWord (encodeImm 0x4 x nn) = .instr (.sneImm x nn) ∧
    (CanRead [.v x] s →
      (∃ t, exec (.seImm x nn) s = .next t ∧ Skips (s.reg x = nn) s t) ∧
      (∃ t, exec (.sneImm x nn) s = .next t ∧ Skips (s.reg x ≠ nn) s t))

/-- R126 and R127: the skips on two registers, X = Y included; a word of class 5 or 9 whose N is not 0 is unknown. -/
def Obligations.SkipsOnRegisters : Prop :=
  ∀ (x y : Reg) (s : State),
    (decodeWord (encodeReg 0x5 x y 0) = .instr (.seReg x y) ∧ decodeWord (encodeReg 0x9 x y 0) = .instr (.sneReg x y)) ∧
    (∀ n : BitVec 4, n ≠ 0 → decodeWord (encodeReg 0x5 x y n) = .rejected (.unknownOpcode (encodeReg 0x5 x y n)) ∧
      decodeWord (encodeReg 0x9 x y n) = .rejected (.unknownOpcode (encodeReg 0x9 x y n))) ∧
    (CanRead [.v x, .v y] s →
      (∃ t, exec (.seReg x y) s = .next t ∧ Skips (s.reg x = s.reg y) s t) ∧
      (∃ t, exec (.sneReg x y) s = .next t ∧ Skips (s.reg x ≠ s.reg y) s t))

/-! ### Register loads and the ALU -/

/-- R143 and R144: V[X] becomes NN, or V[X] + NN modulo 256 with no flag; with X = F, VF is written like any register. -/
def Obligations.ImmediateLoadAndAdd : Prop :=
  ∀ (x : Reg) (nn : Byte) (s : State),
    decodeWord (encodeImm 0x6 x nn) = .instr (.ldImm x nn) ∧ decodeWord (encodeImm 0x7 x nn) = .instr (.addImm x nn) ∧
    (∃ t, exec (.ldImm x nn) s = .next t ∧ WritesReg x nn s t) ∧
    (CanRead [.v x] s →
      ∃ t, exec (.addImm x nn) s = .next t ∧ WritesReg x (BitVec.ofNat 8 (((s.reg x).toNat + nn.toNat) % 256)) s t)

/-- R145 to R148: the move and the bitwise operations, bit by bit; no flag. -/
def Obligations.MoveAndBitwise : Prop :=
  ∀ (x y : Reg) (s : State),
    (decodeWord (encodeReg 0x8 x y 0x0) = .instr (.ldReg x y) ∧ decodeWord (encodeReg 0x8 x y 0x1) = .instr (.orReg x y) ∧
      decodeWord (encodeReg 0x8 x y 0x2) = .instr (.andReg x y) ∧ decodeWord (encodeReg 0x8 x y 0x3) = .instr (.xorReg x y)) ∧
    (CanRead [.v y] s → ∃ t, exec (.ldReg x y) s = .next t ∧ WritesReg x (s.reg y) s t) ∧
    (CanRead [.v x, .v y] s →
      (∃ t b, exec (.orReg x y) s = .next t ∧ WritesReg x b s t ∧
        ∀ j < 8, b.getLsbD j = ((s.reg x).getLsbD j || (s.reg y).getLsbD j)) ∧
      (∃ t b, exec (.andReg x y) s = .next t ∧ WritesReg x b s t ∧
        ∀ j < 8, b.getLsbD j = ((s.reg x).getLsbD j && (s.reg y).getLsbD j)) ∧
      (∃ t b, exec (.xorReg x y) s = .next t ∧ WritesReg x b s t ∧
        ∀ j < 8, b.getLsbD j = ((s.reg x).getLsbD j ^^ (s.reg y).getLsbD j)))

/-- R149, with R141: the sum modulo 256, and VF 1 exactly when the sum exceeds 255. The operands are the old values, VF's too. -/
def Obligations.AddSetsCarry : Prop :=
  ∀ (x y : Reg) (s : State),
    decodeWord (encodeReg 0x8 x y 0x4) = .instr (.addReg x y) ∧
    (CanRead [.v x, .v y] s →
      ∃ t, exec (.addReg x y) s = .next t ∧
        WritesResultAndFlag x (BitVec.ofNat 8 ((s.reg x).toNat + (s.reg y).toNat))
          (if 255 < (s.reg x).toNat + (s.reg y).toNat then 1 else 0) s t)

/-- R150 and R152, with R141: the difference modulo 256, and VF 1 exactly when the minuend is strictly greater. -/
def Obligations.SubtractSetsNoBorrow : Prop :=
  ∀ (x y : Reg) (s : State),
    decodeWord (encodeReg 0x8 x y 0x5) = .instr (.sub x y) ∧ decodeWord (encodeReg 0x8 x y 0x7) = .instr (.subn x y) ∧
    (CanRead [.v x, .v y] s →
      (∃ t, exec (.sub x y) s = .next t ∧
        WritesResultAndFlag x (BitVec.ofNat 8 ((s.reg x).toNat + 256 - (s.reg y).toNat))
          (if (s.reg x).toNat > (s.reg y).toNat then 1 else 0) s t) ∧
      (∃ t, exec (.subn x y) s = .next t ∧
        WritesResultAndFlag x (BitVec.ofNat 8 ((s.reg y).toNat + 256 - (s.reg x).toNat))
          (if (s.reg y).toNat > (s.reg x).toNat then 1 else 0) s t))

/-- R151 and R153, with R141: V[X] halved or doubled modulo 256, and VF the bit shifted out as 0 or 1; V[Y] is not read, so an
unwritten V[Y] is no obstacle. -/
def Obligations.ShiftsSetLostBit : Prop :=
  ∀ (x y : Reg) (s : State),
    decodeWord (encodeReg 0x8 x y 0x6) = .instr (.shr x y) ∧ decodeWord (encodeReg 0x8 x y 0xE) = .instr (.shl x y) ∧
    (CanRead [.v x] s →
      (∃ t, exec (.shr x y) s = .next t ∧
        WritesResultAndFlag x (BitVec.ofNat 8 ((s.reg x).toNat / 2)) (BitVec.ofNat 8 ((s.reg x).toNat % 2)) s t) ∧
      (∃ t, exec (.shl x y) s = .next t ∧
        WritesResultAndFlag x (BitVec.ofNat 8 ((s.reg x).toNat * 2)) (BitVec.ofNat 8 ((s.reg x).toNat / 128)) s t))

/-- R154: V[X] becomes the random byte plus NN modulo 256 (RAND_COMBINE = Add) or the byte AND NN (And); no flag. The byte is
the host's where it has one ready; where it has none the instruction completes with some byte, of which nothing is said: a free
value of the model (log 5). That the host's bytes stand in a port is the model's form (log 2). -/
def Obligations.RandomCombines : Prop :=
  ∀ (x : Reg) (nn : Byte) (s : State),
    decodeWord (encodeImm 0xC x nn) = .instr (.rnd x nn) ∧
    ∃ (t : State) (r : Byte), exec (.rnd x nn) s = .next t ∧
      (∀ (b : Byte) (rest : Port Byte), s.random.ask = some (b, rest) → r = b ∧ t.random = rest ∧ t.draws = s.draws) ∧
      (s.random.ask = none → t.random = s.random) ∧
      (s.cfg.randCombine = .add → t.reg x = BitVec.ofNat 8 (r.toNat + nn.toNat)) ∧
      (s.cfg.randCombine = .and → t.reg x = r &&& nn) ∧
      SameRegsBut [x] s t ∧ Marks [.v x] s t ∧ t.pc = s.pc + 2 ∧ SameBut [.v, .written, .pc, .random, .draws] s t

/-! ### Index register and memory transfer -/

/-- R170, R171 and R172: I becomes NNN; I + V[X] modulo 65536; five times V[X], not masked. VF is not written. -/
def Obligations.IndexIsSet : Prop :=
  ∀ (nnn : BitVec 12) (x : Reg) (s : State),
    (decodeWord (encodeAddr 0xA nnn) = .instr (.ldI nnn) ∧ decodeWord (encodeImm 0xF x 0x1E) = .instr (.addIX x) ∧
      decodeWord (encodeImm 0xF x 0x29) = .instr (.ldFX x)) ∧
    (∃ t, exec (.ldI nnn) s = .next t ∧ WritesI (BitVec.ofNat 16 nnn.toNat) s t) ∧
    (CanRead [.v x, .i] s →
      ∃ t, exec (.addIX x) s = .next t ∧ WritesI (BitVec.ofNat 16 ((s.i.toNat + (s.reg x).toNat) % 65536)) s t) ∧
    (CanRead [.v x] s →
      ∃ t, exec (.ldFX x) s = .next t ∧ WritesI (BitVec.ofNat 16 (5 * (s.reg x).toNat)) s t)

/-- R173: the decimal digits of V[X] at I, I+1, I+2, every other byte as before, I and V[X] unchanged; or MemoryOutOfRange where
I + 2 exceeds 0xFFF, before any byte is written. -/
def Obligations.BcdIsStored : Prop :=
  ∀ (x : Reg) (s : State),
    decodeWord (encodeImm 0xF x 0x33) = .instr (.ldBX x) ∧
    (CanRead [.v x, .i] s →
      (s.i.toNat + 2 ≤ 0xFFF →
        ∃ t, exec (.ldBX x) s = .next t ∧ (t.byteAt s.i.toNat).toNat = (s.reg x).toNat / 100 ∧
          (t.byteAt (s.i.toNat + 1)).toNat = (s.reg x).toNat / 10 % 10 ∧
          (t.byteAt (s.i.toNat + 2)).toNat = (s.reg x).toNat % 10 ∧
          SameMemoryBut s.i.toNat 3 s t ∧ t.pc = s.pc + 2 ∧ SameBut [.mem, .pc] s t) ∧
      (0xFFF < s.i.toNat + 2 → exec (.ldBX x) s = .fault (.memoryOutOfRange (firstOutOfRange s.i.toNat) s.pc)))

/-- R174: V0 to V[X] at I to I + X, every other byte as before, I unchanged; or MemoryOutOfRange where I + X exceeds 0xFFF,
before any byte is written. -/
def Obligations.BlockStore : Prop :=
  ∀ (x : Reg) (s : State),
    decodeWord (encodeImm 0xF x 0x55) = .instr (.ldMemX x) ∧
    (CanRead (readSet (.ldMemX x)) s →
      (s.i.toNat + x.val ≤ 0xFFF →
        ∃ t, exec (.ldMemX x) s = .next t ∧ (∀ j : Reg, j ≤ x → t.byteAt (s.i.toNat + j.val) = s.reg j) ∧
          SameMemoryBut s.i.toNat (x.val + 1) s t ∧ t.pc = s.pc + 2 ∧ SameBut [.mem, .pc] s t) ∧
      (0xFFF < s.i.toNat + x.val →
        exec (.ldMemX x) s = .fault (.memoryOutOfRange (firstOutOfRange s.i.toNat) s.pc)))

/-- R175: V0 to V[X] from I to I + X, the registers above X as before, I and memory unchanged; or MemoryOutOfRange where I + X
exceeds 0xFFF, before any register is written. -/
def Obligations.BlockLoad : Prop :=
  ∀ (x : Reg) (s : State),
    decodeWord (encodeImm 0xF x 0x65) = .instr (.ldXMem x) ∧
    (CanRead [.i] s →
      (s.i.toNat + x.val ≤ 0xFFF →
        ∃ t, exec (.ldXMem x) s = .next t ∧ (∀ j : Reg, j ≤ x → t.reg j = s.byteAt (s.i.toNat + j.val)) ∧
          (∀ j : Reg, x < j → t.reg j = s.reg j) ∧
          Marks ((regsUpTo x).map .v) s t ∧ t.pc = s.pc + 2 ∧ SameBut [.v, .written, .pc] s t) ∧
      (0xFFF < s.i.toNat + x.val →
        exec (.ldXMem x) s = .fault (.memoryOutOfRange (firstOutOfRange s.i.toNat) s.pc)))

/-- R60: a store is seen by the very next fetch. An FX55 that stores at the word after itself is followed by the instruction
whose word it stored, V0 the first byte. -/
def Obligations.StoredWordIsFetchedNext : Prop :=
  ∀ (x : Reg) (s : State), CanRead (readSet (.ldMemX x)) s → 1 ≤ x.val → s.i.toNat = s.pc.toNat + 2 →
    s.i.toNat + x.val ≤ 0xFFF →
    ∃ t, exec (.ldMemX x) s = .next t ∧ wordAtPc t = wordOfBytes (s.reg 0) (s.reg 1) ∧ t.pc.toNat ≤ 0xFFE

/-! ### Keypad and timers -/

/-- R191 and R192: the key skips, on a key answer and on `NoKey` under NOKEY_POLICY = NoPress, and what the other answers do. A
register above 0xF never matches. The answer is taken, one per execution. (That `Quit` takes it too is the model's choice,
log 23.) -/
def Obligations.SkipsOnKey : Prop :=
  ∀ (x : Reg) (s : State) (rest : Port KeyAnswer),
    (decodeWord (encodeImm 0xE x 0x9E) = .instr (.skp x) ∧ decodeWord (encodeImm 0xE x 0xA1) = .instr (.sknp x)) ∧
    (CanRead [.v x] s →
      (∀ k : KeyCode, s.keypad.ask = some (.key k, rest) →
        (∃ t, exec (.skp x) s = .next (t.setKeypad rest) ∧ Skips (k.val = (s.reg x).toNat) s t) ∧
        (∃ t, exec (.sknp x) s = .next (t.setKeypad rest) ∧ Skips (k.val ≠ (s.reg x).toNat) s t)) ∧
      (s.keypad.ask = some (.noKey, rest) → s.cfg.noKey = .noPress →
        (∃ t, exec (.skp x) s = .next (t.setKeypad rest) ∧ Skips False s t) ∧
        (∃ t, exec (.sknp x) s = .next (t.setKeypad rest) ∧ Skips True s t))) ∧
    KeyQueryStops (.skp x) s rest ∧ KeyQueryStops (.sknp x) s rest

/-- R193: FX0A writes the key code; on `NoKey` under NoPress it ends with success and changes nothing, PC included (Retry), so
that over the whole cycle the timers are decremented and, where no stop is requested, the next step runs FX0A again; and what the
other answers do. (That `Quit` takes the answer from the port is the model's choice, log 23.) -/
def Obligations.KeyWaitWritesKey : Prop :=
  ∀ (x : Reg) (s : State) (rest : Port KeyAnswer),
    decodeWord (encodeImm 0xF x 0x0A) = .instr (.ldXK x) ∧
    (∀ k : KeyCode, s.keypad.ask = some (.key k, rest) →
      ∃ t, exec (.ldXK x) s = .next (t.setKeypad rest) ∧ WritesReg x (BitVec.ofNat 8 k.val) s t) ∧
    (s.keypad.ask = some (.noKey, rest) → s.cfg.noKey = .noPress →
      (∃ t, exec (.ldXK x) s = .next t ∧ t.keypad = rest ∧ SameBut [.keypad] s t) ∧
      (AboutToRun s (.ldXK x) →
        ∃ u, step s = .next u ∧ u.keypad = rest ∧ u.waiting = none ∧
          (s.readable .dt = true → u.dt.toNat = s.dt.toNat - 1) ∧ (s.readable .st = true → u.st.toNat = s.st.toNat - 1) ∧
          SameBut [.keypad, .waiting, .dt, .st, .trace] s u ∧ (s.stopReq = false → AboutToRun u (.ldXK x)))) ∧
    KeyQueryStops (.ldXK x) s rest

/-- R194, R195 and R196: the moves between V[X] and the timers, and what the whole cycle leaves, the decrement at its end
included: FX07 reads DT before it; after FX15 and FX18 the written timer is one below V[X] (0 where V[X] is 0), and the cue is
emitted in FX18's own cycle exactly where V[X] is 1. -/
def Obligations.TimerMoves : Prop :=
  ∀ (x : Reg) (s : State),
    (decodeWord (encodeImm 0xF x 0x07) = .instr (.ldXDt x) ∧ decodeWord (encodeImm 0xF x 0x15) = .instr (.ldDtX x) ∧
      decodeWord (encodeImm 0xF x 0x18) = .instr (.ldStX x)) ∧
    (CanRead [.dt] s →
      (∃ t, exec (.ldXDt x) s = .next t ∧ WritesReg x s.dt s t) ∧
      (AboutToRun s (.ldXDt x) → ∃ u, step s = .next u ∧ u.reg x = s.dt ∧ u.dt.toNat = s.dt.toNat - 1)) ∧
    (CanRead [.v x] s →
      (∃ t, exec (.ldDtX x) s = .next t ∧ t.dt = s.reg x ∧ Marks [.dt] s t ∧ t.pc = s.pc + 2 ∧
        SameBut [.dt, .written, .pc] s t) ∧
      (AboutToRun s (.ldDtX x) → ∃ u, step s = .next u ∧ u.dt.toNat = (s.reg x).toNat - 1) ∧
      (∃ t, exec (.ldStX x) s = .next t ∧ t.st = s.reg x ∧ Marks [.st] s t ∧ t.pc = s.pc + 2 ∧
        SameBut [.st, .written, .pc] s t) ∧
      (AboutToRun s (.ldStX x) → ∃ u, step s = .next u ∧ u.st.toNat = (s.reg x).toNat - 1 ∧
        u.trace = if s.reg x = 1 then .cue :: s.trace else s.trace))

/-- R249: DT read by FX07 in the cycle right after `LD DT, Vx` is V[X] - 1 where V[X] is above 0, and 0 where it is 0; each cycle
that succeeds lowers DT by one. -/
def Obligations.DelayReadAfterWriteIsOneLess : Prop :=
  ∀ (x y : Reg) (s t : State), AboutToRun s (.ldDtX x) → CanRead [.v x] s → step s = .next t → AboutToRun t (.ldXDt y) →
    ∃ u, step t = .next u ∧ (u.reg y).toNat = (s.reg x).toNat - 1 ∧ u.dt.toNat = (s.reg x).toNat - 2

/-! ### Graphics -/

/-- R107 and R100: every pixel becomes 0; no render is requested; nothing else changes but PC. -/
def Obligations.ClearScreen : Prop :=
  decodeWord 0x00E0 = .instr .cls ∧
  ∀ s : State, ∃ t, exec .cls s = .next t ∧
    (∀ (px : Fin 64) (py : Fin 32), Pixels.at t.pix px.val py.val = false) ∧ t.pc = s.pc + 2 ∧ SameBut [.pix, .pc] s t

/-- R102 and R103: `writeSprite` of at most 15 rows turns each pixel by the sprite's bit for it, with wrap-around on both axes,
and answers whether some pixel went from 1 to 0. `spriteBit` is written from the place of a pixel, not from the loop. -/
def Obligations.WriteSpriteXorsEachPixel : Prop :=
  ∀ (rows : List Byte) (vx vy : Byte) (p : Pixels), rows.length ≤ 15 →
    (∀ (px : Fin 64) (py : Fin 32),
      Pixels.at (writeSprite rows vx vy p).1 px.val py.val = (Pixels.at p px.val py.val ^^ spriteBit rows vx vy px py)) ∧
    ((writeSprite rows vx vy p).2 = true ↔ Collision rows vx vy p)

/-- R108: DXYN reads the sprite, draws it, writes VF and makes its one render request, and then ends with the sink's answer: with
`Ok`, PC is A + 2 and nothing else changes; with `Error e` it raises DisplayFailure, after the pixels, VF and the request. The
coordinates are the old V[X] and V[Y], also where one is VF. With N = 0 nothing is drawn whatever I holds. MemoryOutOfRange
where N > 0 and I + N - 1 exceeds 0xFFF, before any change. (That an `Error` is taken by a step of its own is the model's form,
log 12.) -/
def Obligations.DrawSprite : Prop :=
  ∀ (x y : Reg) (n : Nat) (s : State), n ≤ 15 →
    decodeWord (encodeReg 0xD x y (BitVec.ofNat 4 n)) = .instr (.drw x y n) ∧
    (CanDraw x y n s →
      (∀ rest, s.display.ask = some (.ok, rest) →
        ∃ t, exec (.drw x y n) s = .next t ∧ DrawsSprite x y n s t ∧ t.pc = s.pc + 2 ∧ t.display = rest ∧
          SameBut [.pix, .v, .written, .pc, .display, .trace] s t) ∧
      (∀ e rest, s.display.ask = some (.error e, rest) → s.run = .running →
        ∃ w, exec (.drw x y n) s = .next w ∧ DrawsSprite x y n s w ∧ w.waiting = some .render ∧
          SameBut [.pix, .v, .written, .waiting, .trace] s w ∧ step w = .fault (.displayFailure e s.pc))) ∧
    (CanRead [.v x, .v y, .i] s → 0 < n → 0xFFF < s.i.toNat + n - 1 →
      exec (.drw x y n) s = .fault (.memoryOutOfRange (firstOutOfRange s.i.toNat) s.pc))

/-- R108's corner case: the same sprite drawn twice at the same place restores the buffer, whatever it held; and from a clear
buffer the second draw reports a collision exactly when the sprite has a set bit, the first none (C4 of 90_conflicts.md). -/
def Obligations.DrawTwiceRestores : Prop :=
  ∀ (rows : List Byte) (vx vy : Byte) (p : Pixels), rows.length ≤ 15 →
    (∀ (px : Fin 64) (py : Fin 32),
      Pixels.at (writeSprite rows vx vy (writeSprite rows vx vy p).1).1 px.val py.val = Pixels.at p px.val py.val) ∧
    ((∀ (px : Fin 64) (py : Fin 32), Pixels.at p px.val py.val = false) →
      (writeSprite rows vx vy p).2 = false ∧
      ((writeSprite rows vx vy (writeSprite rows vx vy p).1).2 = true ↔ ∃ row ∈ rows, row ≠ 0))

/-- The source's wrap-around example (R104): an 8-pixel row drawn at x = 60 lands on columns 60 to 63 and 0 to 3, from bit 7 to
bit 0. -/
def Obligations.SpriteWrapsAtSixty : Prop :=
  ∀ (row vy : Byte) (j : Fin 8),
    Pixels.at (writeSprite [row] 60 vy Pixels.blank).1 ([60, 61, 62, 63, 0, 1, 2, 3].getD j.val 0) (vy.toNat % 32) =
      row.getLsbD (7 - j.val)

/-- The wait of R105 in the model's form (log 4, log 12). A DXYN whose display has not answered leaves the sprite drawn, VF
written and the request recorded (R106, R108) and nothing else changed but the waiting mark; such a core stays as it is until
the answer, and does not draw again: `Ok` completes the instruction and its cycle with PC = A + 2, `Error e` raises
DisplayFailure. -/
def Obligations.DrawAwaitsDisplay : Prop :=
  (∀ (x y : Reg) (n : Nat) (s : State), AboutToRun s (.drw x y n) → CanDraw x y n s → s.display.ask = none →
    ∃ w, step s = .next w ∧ DrawsSprite x y n s w ∧ w.waiting = some .render ∧
      SameBut [.pix, .v, .written, .waiting, .trace] s w) ∧
  (∀ w : State, w.run = .running → w.waiting = some .render →
    (w.display.ask = none → step w = .next w) ∧
    (∀ rest, w.display.ask = some (.ok, rest) →
      ∃ t, step w = .next (timerDecrement t) ∧ t.pc = w.pc + 2 ∧ t.display = rest ∧ t.waiting = none ∧
        SameBut [.pc, .display, .waiting] w t) ∧
    (∀ e rest, w.display.ask = some (.error e, rest) → step w = .fault (.displayFailure e w.pc)))

/-- R106 and R220 over a whole clock tick: a DXYN whose request is answered `Error e` ends the run with DisplayFailure, and the
request stands in the run's trace with the drawn buffer. (The tick takes an answer that is at hand: the model's form, log 12.)
Nothing else is said of the state (R214). -/
def Obligations.FailedRenderIsRecorded : Prop :=
  ∀ (x y : Reg) (n : Nat) (s : State) (e : Nat) (rest : Port DisplayAnswer), AboutToRun s (.drw x y n) → CanDraw x y n s →
    s.display.ask = some (.error e, rest) →
    (tick s).FailedWith (.displayFailure e s.pc) ∧
    ∃ p : Pixels, (tick s).trace = .render p :: s.trace ∧
      ∀ (px : Fin 64) (py : Fin 32), Pixels.at p px.val py.val =
        (Pixels.at s.pix px.val py.val ^^ spriteBit (spriteRows s n) (s.reg x) (s.reg y) px py)
end

