-- ==== Sys2Proof/Laws/Decode.lean ====
section
/-! SUPPORT. The fields of a word as arithmetic on its number (R72), and the number of an encoded word (R74). With these a question
about fields and encodings is one for omega. -/

namespace Sys2Proof

/-! ### Fields of a word -/

section Fields
variable (w : Word)

theorem op_toNat : (Fields.op w).toNat = w.toNat / 4096 := by
  have := w.isLt
  simp only [Fields.op, BitVec.extractLsb'_toNat, Nat.shiftRight_eq_div_pow]; omega

theorem x_val : (Fields.x w).val = w.toNat / 256 % 16 := by
  simp [Fields.x, Nat.shiftRight_eq_div_pow]

theorem y_val : (Fields.y w).val = w.toNat / 16 % 16 := by
  simp [Fields.y, Nat.shiftRight_eq_div_pow]

theorem n_toNat : (Fields.n w).toNat = w.toNat % 16 := by simp [Fields.n, BitVec.extractLsb'_toNat]

theorem nn_toNat : (Fields.nn w).toNat = w.toNat % 256 := by simp [Fields.nn, BitVec.extractLsb'_toNat]

theorem nnn_toNat : (Fields.nnn w).toNat = w.toNat % 4096 := by simp [Fields.nnn, BitVec.extractLsb'_toNat]

end Fields

/-! ### Encoded words -/

/-- Concatenation as arithmetic. -/
theorem toNat_append_eq {n m : Nat} (a : BitVec n) (b : BitVec m) : (a ++ b).toNat = a.toNat * 2 ^ m + b.toNat := by
  rw [BitVec.toNat_append, ← Nat.shiftLeft_add_eq_or_of_lt b.isLt, Nat.shiftLeft_eq]

section Encoded
variable (op n : BitVec 4) (x y : Reg) (nn : Byte) (nnn : BitVec 12)

theorem encodeAddr_toNat : (encodeAddr op nnn).toNat = op.toNat * 4096 + nnn.toNat := toNat_append_eq op nnn

theorem encodeImm_toNat : (encodeImm op x nn).toNat = op.toNat * 4096 + x.val * 256 + nn.toNat := by
  simp only [encodeImm, toNat_append_eq, BitVec.toNat_ofFin]; omega

theorem encodeReg_toNat : (encodeReg op x y n).toNat = op.toNat * 4096 + x.val * 256 + y.val * 16 + n.toNat := by
  simp only [encodeReg, encodeImm_toNat, toNat_append_eq, BitVec.toNat_ofFin]; omega

@[simp] theorem op_encodeAddr : Fields.op (encodeAddr op nnn) = op := by
  apply BitVec.eq_of_toNat_eq; rw [op_toNat, encodeAddr_toNat]; omega

@[simp] theorem nnn_encodeAddr : Fields.nnn (encodeAddr op nnn) = nnn := by
  apply BitVec.eq_of_toNat_eq; rw [nnn_toNat, encodeAddr_toNat]; omega

@[simp] theorem op_encodeImm : Fields.op (encodeImm op x nn) = op := by
  apply BitVec.eq_of_toNat_eq; rw [op_toNat, encodeImm_toNat]; omega

@[simp] theorem x_encodeImm : Fields.x (encodeImm op x nn) = x := by
  apply Fin.ext; rw [x_val, encodeImm_toNat]; omega

@[simp] theorem nn_encodeImm : Fields.nn (encodeImm op x nn) = nn := by
  apply BitVec.eq_of_toNat_eq; rw [nn_toNat, encodeImm_toNat]; omega

@[simp] theorem op_encodeReg : Fields.op (encodeReg op x y n) = op := op_encodeImm _ _ _

@[simp] theorem x_encodeReg : Fields.x (encodeReg op x y n) = x := x_encodeImm _ _ _

@[simp] theorem y_encodeReg : Fields.y (encodeReg op x y n) = y := by
  apply Fin.ext; rw [y_val, encodeReg_toNat]; omega

@[simp] theorem n_encodeReg : Fields.n (encodeReg op x y n) = n := by
  apply BitVec.eq_of_toNat_eq; rw [n_toNat, encodeReg_toNat]; omega

end Encoded

/-- The bytes of a word, put together again, are the word (R54). -/
theorem wordOfBytes_bytes (w : Word) : wordOfBytes (w.extractLsb' 8 8) (w.extractLsb' 0 8) = w := by
  apply BitVec.eq_of_toNat_eq
  have := w.isLt
  simp only [wordOfBytes, toNat_append_eq, BitVec.extractLsb'_toNat, Nat.shiftRight_eq_div_pow]; omega

theorem wordOfBytes_toNat (hi lo : Byte) : (wordOfBytes hi lo).toNat = hi.toNat * 256 + lo.toNat := toNat_append_eq hi lo

end Sys2Proof
end

