-- ==== Sys2Proof/Laws/State.lean ====
section
/-! SUPPORT. One lemma per field and update of State, so that no proof unfolds a record update, and what the accessors
`reg`, `stackEntry`, `byteAt` and `readable` read after an update. -/

namespace Sys2Proof.Machine

section Updates
variable (s : State)

@[simp] theorem setReg_v (x : Reg) (b : Byte) : (s.setReg x b).v = s.v.set x b := rfl
@[simp] theorem setReg_i (x : Reg) (b : Byte) : (s.setReg x b).i = s.i := rfl
@[simp] theorem setReg_pc (x : Reg) (b : Byte) : (s.setReg x b).pc = s.pc := rfl
@[simp] theorem setReg_sp (x : Reg) (b : Byte) : (s.setReg x b).sp = s.sp := rfl
@[simp] theorem setReg_stack (x : Reg) (b : Byte) : (s.setReg x b).stack = s.stack := rfl
@[simp] theorem setReg_dt (x : Reg) (b : Byte) : (s.setReg x b).dt = s.dt := rfl
@[simp] theorem setReg_st (x : Reg) (b : Byte) : (s.setReg x b).st = s.st := rfl
@[simp] theorem setReg_mem (x : Reg) (b : Byte) : (s.setReg x b).mem = s.mem := rfl
@[simp] theorem setReg_pix (x : Reg) (b : Byte) : (s.setReg x b).pix = s.pix := rfl
@[simp] theorem setReg_run (x : Reg) (b : Byte) : (s.setReg x b).run = s.run := rfl
@[simp] theorem setReg_stopReq (x : Reg) (b : Byte) : (s.setReg x b).stopReq = s.stopReq := rfl
@[simp] theorem setReg_written (x : Reg) (b : Byte) : (s.setReg x b).written = s.written.mark (.v x) := rfl
@[simp] theorem setReg_cfg (x : Reg) (b : Byte) : (s.setReg x b).cfg = s.cfg := rfl
@[simp] theorem setReg_keypad (x : Reg) (b : Byte) : (s.setReg x b).keypad = s.keypad := rfl
@[simp] theorem setReg_display (x : Reg) (b : Byte) : (s.setReg x b).display = s.display := rfl
@[simp] theorem setReg_random (x : Reg) (b : Byte) : (s.setReg x b).random = s.random := rfl
@[simp] theorem setReg_draws (x : Reg) (b : Byte) : (s.setReg x b).draws = s.draws := rfl
@[simp] theorem setReg_waiting (x : Reg) (b : Byte) : (s.setReg x b).waiting = s.waiting := rfl
@[simp] theorem setReg_trace (x : Reg) (b : Byte) : (s.setReg x b).trace = s.trace := rfl

@[simp] theorem setI_v (w : Word) : (s.setI w).v = s.v := rfl
@[simp] theorem setI_i (w : Word) : (s.setI w).i = w := rfl
@[simp] theorem setI_pc (w : Word) : (s.setI w).pc = s.pc := rfl
@[simp] theorem setI_sp (w : Word) : (s.setI w).sp = s.sp := rfl
@[simp] theorem setI_stack (w : Word) : (s.setI w).stack = s.stack := rfl
@[simp] theorem setI_dt (w : Word) : (s.setI w).dt = s.dt := rfl
@[simp] theorem setI_st (w : Word) : (s.setI w).st = s.st := rfl
@[simp] theorem setI_mem (w : Word) : (s.setI w).mem = s.mem := rfl
@[simp] theorem setI_pix (w : Word) : (s.setI w).pix = s.pix := rfl
@[simp] theorem setI_run (w : Word) : (s.setI w).run = s.run := rfl
@[simp] theorem setI_stopReq (w : Word) : (s.setI w).stopReq = s.stopReq := rfl
@[simp] theorem setI_written (w : Word) : (s.setI w).written = s.written.mark .i := rfl
@[simp] theorem setI_cfg (w : Word) : (s.setI w).cfg = s.cfg := rfl
@[simp] theorem setI_keypad (w : Word) : (s.setI w).keypad = s.keypad := rfl
@[simp] theorem setI_display (w : Word) : (s.setI w).display = s.display := rfl
@[simp] theorem setI_random (w : Word) : (s.setI w).random = s.random := rfl
@[simp] theorem setI_draws (w : Word) : (s.setI w).draws = s.draws := rfl
@[simp] theorem setI_waiting (w : Word) : (s.setI w).waiting = s.waiting := rfl
@[simp] theorem setI_trace (w : Word) : (s.setI w).trace = s.trace := rfl

@[simp] theorem setDt_v (b : Byte) : (s.setDt b).v = s.v := rfl
@[simp] theorem setDt_i (b : Byte) : (s.setDt b).i = s.i := rfl
@[simp] theorem setDt_pc (b : Byte) : (s.setDt b).pc = s.pc := rfl
@[simp] theorem setDt_sp (b : Byte) : (s.setDt b).sp = s.sp := rfl
@[simp] theorem setDt_stack (b : Byte) : (s.setDt b).stack = s.stack := rfl
@[simp] theorem setDt_dt (b : Byte) : (s.setDt b).dt = b := rfl
@[simp] theorem setDt_st (b : Byte) : (s.setDt b).st = s.st := rfl
@[simp] theorem setDt_mem (b : Byte) : (s.setDt b).mem = s.mem := rfl
@[simp] theorem setDt_pix (b : Byte) : (s.setDt b).pix = s.pix := rfl
@[simp] theorem setDt_run (b : Byte) : (s.setDt b).run = s.run := rfl
@[simp] theorem setDt_stopReq (b : Byte) : (s.setDt b).stopReq = s.stopReq := rfl
@[simp] theorem setDt_written (b : Byte) : (s.setDt b).written = s.written.mark .dt := rfl
@[simp] theorem setDt_cfg (b : Byte) : (s.setDt b).cfg = s.cfg := rfl
@[simp] theorem setDt_keypad (b : Byte) : (s.setDt b).keypad = s.keypad := rfl
@[simp] theorem setDt_display (b : Byte) : (s.setDt b).display = s.display := rfl
@[simp] theorem setDt_random (b : Byte) : (s.setDt b).random = s.random := rfl
@[simp] theorem setDt_draws (b : Byte) : (s.setDt b).draws = s.draws := rfl
@[simp] theorem setDt_waiting (b : Byte) : (s.setDt b).waiting = s.waiting := rfl
@[simp] theorem setDt_trace (b : Byte) : (s.setDt b).trace = s.trace := rfl

@[simp] theorem setSt_v (b : Byte) : (s.setSt b).v = s.v := rfl
@[simp] theorem setSt_i (b : Byte) : (s.setSt b).i = s.i := rfl
@[simp] theorem setSt_pc (b : Byte) : (s.setSt b).pc = s.pc := rfl
@[simp] theorem setSt_sp (b : Byte) : (s.setSt b).sp = s.sp := rfl
@[simp] theorem setSt_stack (b : Byte) : (s.setSt b).stack = s.stack := rfl
@[simp] theorem setSt_dt (b : Byte) : (s.setSt b).dt = s.dt := rfl
@[simp] theorem setSt_st (b : Byte) : (s.setSt b).st = b := rfl
@[simp] theorem setSt_mem (b : Byte) : (s.setSt b).mem = s.mem := rfl
@[simp] theorem setSt_pix (b : Byte) : (s.setSt b).pix = s.pix := rfl
@[simp] theorem setSt_run (b : Byte) : (s.setSt b).run = s.run := rfl
@[simp] theorem setSt_stopReq (b : Byte) : (s.setSt b).stopReq = s.stopReq := rfl
@[simp] theorem setSt_written (b : Byte) : (s.setSt b).written = s.written.mark .st := rfl
@[simp] theorem setSt_cfg (b : Byte) : (s.setSt b).cfg = s.cfg := rfl
@[simp] theorem setSt_keypad (b : Byte) : (s.setSt b).keypad = s.keypad := rfl
@[simp] theorem setSt_display (b : Byte) : (s.setSt b).display = s.display := rfl
@[simp] theorem setSt_random (b : Byte) : (s.setSt b).random = s.random := rfl
@[simp] theorem setSt_draws (b : Byte) : (s.setSt b).draws = s.draws := rfl
@[simp] theorem setSt_waiting (b : Byte) : (s.setSt b).waiting = s.waiting := rfl
@[simp] theorem setSt_trace (b : Byte) : (s.setSt b).trace = s.trace := rfl

@[simp] theorem setPc_v (w : Word) : (s.setPc w).v = s.v := rfl
@[simp] theorem setPc_i (w : Word) : (s.setPc w).i = s.i := rfl
@[simp] theorem setPc_pc (w : Word) : (s.setPc w).pc = w := rfl
@[simp] theorem setPc_sp (w : Word) : (s.setPc w).sp = s.sp := rfl
@[simp] theorem setPc_stack (w : Word) : (s.setPc w).stack = s.stack := rfl
@[simp] theorem setPc_dt (w : Word) : (s.setPc w).dt = s.dt := rfl
@[simp] theorem setPc_st (w : Word) : (s.setPc w).st = s.st := rfl
@[simp] theorem setPc_mem (w : Word) : (s.setPc w).mem = s.mem := rfl
@[simp] theorem setPc_pix (w : Word) : (s.setPc w).pix = s.pix := rfl
@[simp] theorem setPc_run (w : Word) : (s.setPc w).run = s.run := rfl
@[simp] theorem setPc_stopReq (w : Word) : (s.setPc w).stopReq = s.stopReq := rfl
@[simp] theorem setPc_written (w : Word) : (s.setPc w).written = s.written := rfl
@[simp] theorem setPc_cfg (w : Word) : (s.setPc w).cfg = s.cfg := rfl
@[simp] theorem setPc_keypad (w : Word) : (s.setPc w).keypad = s.keypad := rfl
@[simp] theorem setPc_display (w : Word) : (s.setPc w).display = s.display := rfl
@[simp] theorem setPc_random (w : Word) : (s.setPc w).random = s.random := rfl
@[simp] theorem setPc_draws (w : Word) : (s.setPc w).draws = s.draws := rfl
@[simp] theorem setPc_waiting (w : Word) : (s.setPc w).waiting = s.waiting := rfl
@[simp] theorem setPc_trace (w : Word) : (s.setPc w).trace = s.trace := rfl

@[simp] theorem advance_v (w : Word) : (s.advance w).v = s.v := rfl
@[simp] theorem advance_i (w : Word) : (s.advance w).i = s.i := rfl
@[simp] theorem advance_pc (w : Word) : (s.advance w).pc = s.pc + w := rfl
@[simp] theorem advance_sp (w : Word) : (s.advance w).sp = s.sp := rfl
@[simp] theorem advance_stack (w : Word) : (s.advance w).stack = s.stack := rfl
@[simp] theorem advance_dt (w : Word) : (s.advance w).dt = s.dt := rfl
@[simp] theorem advance_st (w : Word) : (s.advance w).st = s.st := rfl
@[simp] theorem advance_mem (w : Word) : (s.advance w).mem = s.mem := rfl
@[simp] theorem advance_pix (w : Word) : (s.advance w).pix = s.pix := rfl
@[simp] theorem advance_run (w : Word) : (s.advance w).run = s.run := rfl
@[simp] theorem advance_stopReq (w : Word) : (s.advance w).stopReq = s.stopReq := rfl
@[simp] theorem advance_written (w : Word) : (s.advance w).written = s.written := rfl
@[simp] theorem advance_cfg (w : Word) : (s.advance w).cfg = s.cfg := rfl
@[simp] theorem advance_keypad (w : Word) : (s.advance w).keypad = s.keypad := rfl
@[simp] theorem advance_display (w : Word) : (s.advance w).display = s.display := rfl
@[simp] theorem advance_random (w : Word) : (s.advance w).random = s.random := rfl
@[simp] theorem advance_draws (w : Word) : (s.advance w).draws = s.draws := rfl
@[simp] theorem advance_waiting (w : Word) : (s.advance w).waiting = s.waiting := rfl
@[simp] theorem advance_trace (w : Word) : (s.advance w).trace = s.trace := rfl

@[simp] theorem setSp_v (b : Byte) : (s.setSp b).v = s.v := rfl
@[simp] theorem setSp_i (b : Byte) : (s.setSp b).i = s.i := rfl
@[simp] theorem setSp_pc (b : Byte) : (s.setSp b).pc = s.pc := rfl
@[simp] theorem setSp_sp (b : Byte) : (s.setSp b).sp = b := rfl
@[simp] theorem setSp_stack (b : Byte) : (s.setSp b).stack = s.stack := rfl
@[simp] theorem setSp_dt (b : Byte) : (s.setSp b).dt = s.dt := rfl
@[simp] theorem setSp_st (b : Byte) : (s.setSp b).st = s.st := rfl
@[simp] theorem setSp_mem (b : Byte) : (s.setSp b).mem = s.mem := rfl
@[simp] theorem setSp_pix (b : Byte) : (s.setSp b).pix = s.pix := rfl
@[simp] theorem setSp_run (b : Byte) : (s.setSp b).run = s.run := rfl
@[simp] theorem setSp_stopReq (b : Byte) : (s.setSp b).stopReq = s.stopReq := rfl
@[simp] theorem setSp_written (b : Byte) : (s.setSp b).written = s.written := rfl
@[simp] theorem setSp_cfg (b : Byte) : (s.setSp b).cfg = s.cfg := rfl
@[simp] theorem setSp_keypad (b : Byte) : (s.setSp b).keypad = s.keypad := rfl
@[simp] theorem setSp_display (b : Byte) : (s.setSp b).display = s.display := rfl
@[simp] theorem setSp_random (b : Byte) : (s.setSp b).random = s.random := rfl
@[simp] theorem setSp_draws (b : Byte) : (s.setSp b).draws = s.draws := rfl
@[simp] theorem setSp_waiting (b : Byte) : (s.setSp b).waiting = s.waiting := rfl
@[simp] theorem setSp_trace (b : Byte) : (s.setSp b).trace = s.trace := rfl

@[simp] theorem setStackEntry_v (j : Nat) (w : Word) : (s.setStackEntry j w).v = s.v := rfl
@[simp] theorem setStackEntry_i (j : Nat) (w : Word) : (s.setStackEntry j w).i = s.i := rfl
@[simp] theorem setStackEntry_pc (j : Nat) (w : Word) : (s.setStackEntry j w).pc = s.pc := rfl
@[simp] theorem setStackEntry_sp (j : Nat) (w : Word) : (s.setStackEntry j w).sp = s.sp := rfl
@[simp] theorem setStackEntry_stack (j : Nat) (w : Word) : (s.setStackEntry j w).stack = s.stack.setIfInBounds j w := rfl
@[simp] theorem setStackEntry_dt (j : Nat) (w : Word) : (s.setStackEntry j w).dt = s.dt := rfl
@[simp] theorem setStackEntry_st (j : Nat) (w : Word) : (s.setStackEntry j w).st = s.st := rfl
@[simp] theorem setStackEntry_mem (j : Nat) (w : Word) : (s.setStackEntry j w).mem = s.mem := rfl
@[simp] theorem setStackEntry_pix (j : Nat) (w : Word) : (s.setStackEntry j w).pix = s.pix := rfl
@[simp] theorem setStackEntry_run (j : Nat) (w : Word) : (s.setStackEntry j w).run = s.run := rfl
@[simp] theorem setStackEntry_stopReq (j : Nat) (w : Word) : (s.setStackEntry j w).stopReq = s.stopReq := rfl
@[simp] theorem setStackEntry_written (j : Nat) (w : Word) : (s.setStackEntry j w).written = s.written := rfl
@[simp] theorem setStackEntry_cfg (j : Nat) (w : Word) : (s.setStackEntry j w).cfg = s.cfg := rfl
@[simp] theorem setStackEntry_keypad (j : Nat) (w : Word) : (s.setStackEntry j w).keypad = s.keypad := rfl
@[simp] theorem setStackEntry_display (j : Nat) (w : Word) : (s.setStackEntry j w).display = s.display := rfl
@[simp] theorem setStackEntry_random (j : Nat) (w : Word) : (s.setStackEntry j w).random = s.random := rfl
@[simp] theorem setStackEntry_draws (j : Nat) (w : Word) : (s.setStackEntry j w).draws = s.draws := rfl
@[simp] theorem setStackEntry_waiting (j : Nat) (w : Word) : (s.setStackEntry j w).waiting = s.waiting := rfl
@[simp] theorem setStackEntry_trace (j : Nat) (w : Word) : (s.setStackEntry j w).trace = s.trace := rfl

@[simp] theorem setMem_v (m : Memory) : (s.setMem m).v = s.v := rfl
@[simp] theorem setMem_i (m : Memory) : (s.setMem m).i = s.i := rfl
@[simp] theorem setMem_pc (m : Memory) : (s.setMem m).pc = s.pc := rfl
@[simp] theorem setMem_sp (m : Memory) : (s.setMem m).sp = s.sp := rfl
@[simp] theorem setMem_stack (m : Memory) : (s.setMem m).stack = s.stack := rfl
@[simp] theorem setMem_dt (m : Memory) : (s.setMem m).dt = s.dt := rfl
@[simp] theorem setMem_st (m : Memory) : (s.setMem m).st = s.st := rfl
@[simp] theorem setMem_mem (m : Memory) : (s.setMem m).mem = m := rfl
@[simp] theorem setMem_pix (m : Memory) : (s.setMem m).pix = s.pix := rfl
@[simp] theorem setMem_run (m : Memory) : (s.setMem m).run = s.run := rfl
@[simp] theorem setMem_stopReq (m : Memory) : (s.setMem m).stopReq = s.stopReq := rfl
@[simp] theorem setMem_written (m : Memory) : (s.setMem m).written = s.written := rfl
@[simp] theorem setMem_cfg (m : Memory) : (s.setMem m).cfg = s.cfg := rfl
@[simp] theorem setMem_keypad (m : Memory) : (s.setMem m).keypad = s.keypad := rfl
@[simp] theorem setMem_display (m : Memory) : (s.setMem m).display = s.display := rfl
@[simp] theorem setMem_random (m : Memory) : (s.setMem m).random = s.random := rfl
@[simp] theorem setMem_draws (m : Memory) : (s.setMem m).draws = s.draws := rfl
@[simp] theorem setMem_waiting (m : Memory) : (s.setMem m).waiting = s.waiting := rfl
@[simp] theorem setMem_trace (m : Memory) : (s.setMem m).trace = s.trace := rfl

@[simp] theorem setPix_v (p : Pixels) : (s.setPix p).v = s.v := rfl
@[simp] theorem setPix_i (p : Pixels) : (s.setPix p).i = s.i := rfl
@[simp] theorem setPix_pc (p : Pixels) : (s.setPix p).pc = s.pc := rfl
@[simp] theorem setPix_sp (p : Pixels) : (s.setPix p).sp = s.sp := rfl
@[simp] theorem setPix_stack (p : Pixels) : (s.setPix p).stack = s.stack := rfl
@[simp] theorem setPix_dt (p : Pixels) : (s.setPix p).dt = s.dt := rfl
@[simp] theorem setPix_st (p : Pixels) : (s.setPix p).st = s.st := rfl
@[simp] theorem setPix_mem (p : Pixels) : (s.setPix p).mem = s.mem := rfl
@[simp] theorem setPix_pix (p : Pixels) : (s.setPix p).pix = p := rfl
@[simp] theorem setPix_run (p : Pixels) : (s.setPix p).run = s.run := rfl
@[simp] theorem setPix_stopReq (p : Pixels) : (s.setPix p).stopReq = s.stopReq := rfl
@[simp] theorem setPix_written (p : Pixels) : (s.setPix p).written = s.written := rfl
@[simp] theorem setPix_cfg (p : Pixels) : (s.setPix p).cfg = s.cfg := rfl
@[simp] theorem setPix_keypad (p : Pixels) : (s.setPix p).keypad = s.keypad := rfl
@[simp] theorem setPix_display (p : Pixels) : (s.setPix p).display = s.display := rfl
@[simp] theorem setPix_random (p : Pixels) : (s.setPix p).random = s.random := rfl
@[simp] theorem setPix_draws (p : Pixels) : (s.setPix p).draws = s.draws := rfl
@[simp] theorem setPix_waiting (p : Pixels) : (s.setPix p).waiting = s.waiting := rfl
@[simp] theorem setPix_trace (p : Pixels) : (s.setPix p).trace = s.trace := rfl

@[simp] theorem setRun_v (r : RunState) : (s.setRun r).v = s.v := rfl
@[simp] theorem setRun_i (r : RunState) : (s.setRun r).i = s.i := rfl
@[simp] theorem setRun_pc (r : RunState) : (s.setRun r).pc = s.pc := rfl
@[simp] theorem setRun_sp (r : RunState) : (s.setRun r).sp = s.sp := rfl
@[simp] theorem setRun_stack (r : RunState) : (s.setRun r).stack = s.stack := rfl
@[simp] theorem setRun_dt (r : RunState) : (s.setRun r).dt = s.dt := rfl
@[simp] theorem setRun_st (r : RunState) : (s.setRun r).st = s.st := rfl
@[simp] theorem setRun_mem (r : RunState) : (s.setRun r).mem = s.mem := rfl
@[simp] theorem setRun_pix (r : RunState) : (s.setRun r).pix = s.pix := rfl
@[simp] theorem setRun_run (r : RunState) : (s.setRun r).run = r := rfl
@[simp] theorem setRun_stopReq (r : RunState) : (s.setRun r).stopReq = s.stopReq := rfl
@[simp] theorem setRun_written (r : RunState) : (s.setRun r).written = s.written := rfl
@[simp] theorem setRun_cfg (r : RunState) : (s.setRun r).cfg = s.cfg := rfl
@[simp] theorem setRun_keypad (r : RunState) : (s.setRun r).keypad = s.keypad := rfl
@[simp] theorem setRun_display (r : RunState) : (s.setRun r).display = s.display := rfl
@[simp] theorem setRun_random (r : RunState) : (s.setRun r).random = s.random := rfl
@[simp] theorem setRun_draws (r : RunState) : (s.setRun r).draws = s.draws := rfl
@[simp] theorem setRun_waiting (r : RunState) : (s.setRun r).waiting = s.waiting := rfl
@[simp] theorem setRun_trace (r : RunState) : (s.setRun r).trace = s.trace := rfl

@[simp] theorem setWaiting_v (b : Option Request) : (s.setWaiting b).v = s.v := rfl
@[simp] theorem setWaiting_i (b : Option Request) : (s.setWaiting b).i = s.i := rfl
@[simp] theorem setWaiting_pc (b : Option Request) : (s.setWaiting b).pc = s.pc := rfl
@[simp] theorem setWaiting_sp (b : Option Request) : (s.setWaiting b).sp = s.sp := rfl
@[simp] theorem setWaiting_stack (b : Option Request) : (s.setWaiting b).stack = s.stack := rfl
@[simp] theorem setWaiting_dt (b : Option Request) : (s.setWaiting b).dt = s.dt := rfl
@[simp] theorem setWaiting_st (b : Option Request) : (s.setWaiting b).st = s.st := rfl
@[simp] theorem setWaiting_mem (b : Option Request) : (s.setWaiting b).mem = s.mem := rfl
@[simp] theorem setWaiting_pix (b : Option Request) : (s.setWaiting b).pix = s.pix := rfl
@[simp] theorem setWaiting_run (b : Option Request) : (s.setWaiting b).run = s.run := rfl
@[simp] theorem setWaiting_stopReq (b : Option Request) : (s.setWaiting b).stopReq = s.stopReq := rfl
@[simp] theorem setWaiting_written (b : Option Request) : (s.setWaiting b).written = s.written := rfl
@[simp] theorem setWaiting_cfg (b : Option Request) : (s.setWaiting b).cfg = s.cfg := rfl
@[simp] theorem setWaiting_keypad (b : Option Request) : (s.setWaiting b).keypad = s.keypad := rfl
@[simp] theorem setWaiting_display (b : Option Request) : (s.setWaiting b).display = s.display := rfl
@[simp] theorem setWaiting_random (b : Option Request) : (s.setWaiting b).random = s.random := rfl
@[simp] theorem setWaiting_draws (b : Option Request) : (s.setWaiting b).draws = s.draws := rfl
@[simp] theorem setWaiting_waiting (b : Option Request) : (s.setWaiting b).waiting = b := rfl
@[simp] theorem setWaiting_trace (b : Option Request) : (s.setWaiting b).trace = s.trace := rfl

@[simp] theorem setKeypad_v (p : Port KeyAnswer) : (s.setKeypad p).v = s.v := rfl
@[simp] theorem setKeypad_i (p : Port KeyAnswer) : (s.setKeypad p).i = s.i := rfl
@[simp] theorem setKeypad_pc (p : Port KeyAnswer) : (s.setKeypad p).pc = s.pc := rfl
@[simp] theorem setKeypad_sp (p : Port KeyAnswer) : (s.setKeypad p).sp = s.sp := rfl
@[simp] theorem setKeypad_stack (p : Port KeyAnswer) : (s.setKeypad p).stack = s.stack := rfl
@[simp] theorem setKeypad_dt (p : Port KeyAnswer) : (s.setKeypad p).dt = s.dt := rfl
@[simp] theorem setKeypad_st (p : Port KeyAnswer) : (s.setKeypad p).st = s.st := rfl
@[simp] theorem setKeypad_mem (p : Port KeyAnswer) : (s.setKeypad p).mem = s.mem := rfl
@[simp] theorem setKeypad_pix (p : Port KeyAnswer) : (s.setKeypad p).pix = s.pix := rfl
@[simp] theorem setKeypad_run (p : Port KeyAnswer) : (s.setKeypad p).run = s.run := rfl
@[simp] theorem setKeypad_stopReq (p : Port KeyAnswer) : (s.setKeypad p).stopReq = s.stopReq := rfl
@[simp] theorem setKeypad_written (p : Port KeyAnswer) : (s.setKeypad p).written = s.written := rfl
@[simp] theorem setKeypad_cfg (p : Port KeyAnswer) : (s.setKeypad p).cfg = s.cfg := rfl
@[simp] theorem setKeypad_keypad (p : Port KeyAnswer) : (s.setKeypad p).keypad = p := rfl
@[simp] theorem setKeypad_display (p : Port KeyAnswer) : (s.setKeypad p).display = s.display := rfl
@[simp] theorem setKeypad_random (p : Port KeyAnswer) : (s.setKeypad p).random = s.random := rfl
@[simp] theorem setKeypad_draws (p : Port KeyAnswer) : (s.setKeypad p).draws = s.draws := rfl
@[simp] theorem setKeypad_waiting (p : Port KeyAnswer) : (s.setKeypad p).waiting = s.waiting := rfl
@[simp] theorem setKeypad_trace (p : Port KeyAnswer) : (s.setKeypad p).trace = s.trace := rfl

@[simp] theorem setDisplay_v (p : Port DisplayAnswer) : (s.setDisplay p).v = s.v := rfl
@[simp] theorem setDisplay_i (p : Port DisplayAnswer) : (s.setDisplay p).i = s.i := rfl
@[simp] theorem setDisplay_pc (p : Port DisplayAnswer) : (s.setDisplay p).pc = s.pc := rfl
@[simp] theorem setDisplay_sp (p : Port DisplayAnswer) : (s.setDisplay p).sp = s.sp := rfl
@[simp] theorem setDisplay_stack (p : Port DisplayAnswer) : (s.setDisplay p).stack = s.stack := rfl
@[simp] theorem setDisplay_dt (p : Port DisplayAnswer) : (s.setDisplay p).dt = s.dt := rfl
@[simp] theorem setDisplay_st (p : Port DisplayAnswer) : (s.setDisplay p).st = s.st := rfl
@[simp] theorem setDisplay_mem (p : Port DisplayAnswer) : (s.setDisplay p).mem = s.mem := rfl
@[simp] theorem setDisplay_pix (p : Port DisplayAnswer) : (s.setDisplay p).pix = s.pix := rfl
@[simp] theorem setDisplay_run (p : Port DisplayAnswer) : (s.setDisplay p).run = s.run := rfl
@[simp] theorem setDisplay_stopReq (p : Port DisplayAnswer) : (s.setDisplay p).stopReq = s.stopReq := rfl
@[simp] theorem setDisplay_written (p : Port DisplayAnswer) : (s.setDisplay p).written = s.written := rfl
@[simp] theorem setDisplay_cfg (p : Port DisplayAnswer) : (s.setDisplay p).cfg = s.cfg := rfl
@[simp] theorem setDisplay_keypad (p : Port DisplayAnswer) : (s.setDisplay p).keypad = s.keypad := rfl
@[simp] theorem setDisplay_display (p : Port DisplayAnswer) : (s.setDisplay p).display = p := rfl
@[simp] theorem setDisplay_random (p : Port DisplayAnswer) : (s.setDisplay p).random = s.random := rfl
@[simp] theorem setDisplay_draws (p : Port DisplayAnswer) : (s.setDisplay p).draws = s.draws := rfl
@[simp] theorem setDisplay_waiting (p : Port DisplayAnswer) : (s.setDisplay p).waiting = s.waiting := rfl
@[simp] theorem setDisplay_trace (p : Port DisplayAnswer) : (s.setDisplay p).trace = s.trace := rfl

@[simp] theorem setRandom_v (p : Port Byte) : (s.setRandom p).v = s.v := rfl
@[simp] theorem setRandom_i (p : Port Byte) : (s.setRandom p).i = s.i := rfl
@[simp] theorem setRandom_pc (p : Port Byte) : (s.setRandom p).pc = s.pc := rfl
@[simp] theorem setRandom_sp (p : Port Byte) : (s.setRandom p).sp = s.sp := rfl
@[simp] theorem setRandom_stack (p : Port Byte) : (s.setRandom p).stack = s.stack := rfl
@[simp] theorem setRandom_dt (p : Port Byte) : (s.setRandom p).dt = s.dt := rfl
@[simp] theorem setRandom_st (p : Port Byte) : (s.setRandom p).st = s.st := rfl
@[simp] theorem setRandom_mem (p : Port Byte) : (s.setRandom p).mem = s.mem := rfl
@[simp] theorem setRandom_pix (p : Port Byte) : (s.setRandom p).pix = s.pix := rfl
@[simp] theorem setRandom_run (p : Port Byte) : (s.setRandom p).run = s.run := rfl
@[simp] theorem setRandom_stopReq (p : Port Byte) : (s.setRandom p).stopReq = s.stopReq := rfl
@[simp] theorem setRandom_written (p : Port Byte) : (s.setRandom p).written = s.written := rfl
@[simp] theorem setRandom_cfg (p : Port Byte) : (s.setRandom p).cfg = s.cfg := rfl
@[simp] theorem setRandom_keypad (p : Port Byte) : (s.setRandom p).keypad = s.keypad := rfl
@[simp] theorem setRandom_display (p : Port Byte) : (s.setRandom p).display = s.display := rfl
@[simp] theorem setRandom_random (p : Port Byte) : (s.setRandom p).random = p := rfl
@[simp] theorem setRandom_draws (p : Port Byte) : (s.setRandom p).draws = s.draws := rfl
@[simp] theorem setRandom_waiting (p : Port Byte) : (s.setRandom p).waiting = s.waiting := rfl
@[simp] theorem setRandom_trace (p : Port Byte) : (s.setRandom p).trace = s.trace := rfl

@[simp] theorem countDraw_v : s.countDraw.v = s.v := rfl
@[simp] theorem countDraw_i : s.countDraw.i = s.i := rfl
@[simp] theorem countDraw_pc : s.countDraw.pc = s.pc := rfl
@[simp] theorem countDraw_sp : s.countDraw.sp = s.sp := rfl
@[simp] theorem countDraw_stack : s.countDraw.stack = s.stack := rfl
@[simp] theorem countDraw_dt : s.countDraw.dt = s.dt := rfl
@[simp] theorem countDraw_st : s.countDraw.st = s.st := rfl
@[simp] theorem countDraw_mem : s.countDraw.mem = s.mem := rfl
@[simp] theorem countDraw_pix : s.countDraw.pix = s.pix := rfl
@[simp] theorem countDraw_run : s.countDraw.run = s.run := rfl
@[simp] theorem countDraw_stopReq : s.countDraw.stopReq = s.stopReq := rfl
@[simp] theorem countDraw_written : s.countDraw.written = s.written := rfl
@[simp] theorem countDraw_cfg : s.countDraw.cfg = s.cfg := rfl
@[simp] theorem countDraw_keypad : s.countDraw.keypad = s.keypad := rfl
@[simp] theorem countDraw_display : s.countDraw.display = s.display := rfl
@[simp] theorem countDraw_random : s.countDraw.random = s.random := rfl
@[simp] theorem countDraw_draws : s.countDraw.draws = s.draws + 1 := rfl
@[simp] theorem countDraw_waiting : s.countDraw.waiting = s.waiting := rfl
@[simp] theorem countDraw_trace : s.countDraw.trace = s.trace := rfl

@[simp] theorem lowerDt_v : s.lowerDt.v = s.v := rfl
@[simp] theorem lowerDt_i : s.lowerDt.i = s.i := rfl
@[simp] theorem lowerDt_pc : s.lowerDt.pc = s.pc := rfl
@[simp] theorem lowerDt_sp : s.lowerDt.sp = s.sp := rfl
@[simp] theorem lowerDt_stack : s.lowerDt.stack = s.stack := rfl
@[simp] theorem lowerDt_dt : s.lowerDt.dt = s.dt - 1 := rfl
@[simp] theorem lowerDt_st : s.lowerDt.st = s.st := rfl
@[simp] theorem lowerDt_mem : s.lowerDt.mem = s.mem := rfl
@[simp] theorem lowerDt_pix : s.lowerDt.pix = s.pix := rfl
@[simp] theorem lowerDt_run : s.lowerDt.run = s.run := rfl
@[simp] theorem lowerDt_stopReq : s.lowerDt.stopReq = s.stopReq := rfl
@[simp] theorem lowerDt_written : s.lowerDt.written = s.written := rfl
@[simp] theorem lowerDt_cfg : s.lowerDt.cfg = s.cfg := rfl
@[simp] theorem lowerDt_keypad : s.lowerDt.keypad = s.keypad := rfl
@[simp] theorem lowerDt_display : s.lowerDt.display = s.display := rfl
@[simp] theorem lowerDt_random : s.lowerDt.random = s.random := rfl
@[simp] theorem lowerDt_draws : s.lowerDt.draws = s.draws := rfl
@[simp] theorem lowerDt_waiting : s.lowerDt.waiting = s.waiting := rfl
@[simp] theorem lowerDt_trace : s.lowerDt.trace = s.trace := rfl

@[simp] theorem lowerSt_v : s.lowerSt.v = s.v := rfl
@[simp] theorem lowerSt_i : s.lowerSt.i = s.i := rfl
@[simp] theorem lowerSt_pc : s.lowerSt.pc = s.pc := rfl
@[simp] theorem lowerSt_sp : s.lowerSt.sp = s.sp := rfl
@[simp] theorem lowerSt_stack : s.lowerSt.stack = s.stack := rfl
@[simp] theorem lowerSt_dt : s.lowerSt.dt = s.dt := rfl
@[simp] theorem lowerSt_st : s.lowerSt.st = s.st - 1 := rfl
@[simp] theorem lowerSt_mem : s.lowerSt.mem = s.mem := rfl
@[simp] theorem lowerSt_pix : s.lowerSt.pix = s.pix := rfl
@[simp] theorem lowerSt_run : s.lowerSt.run = s.run := rfl
@[simp] theorem lowerSt_stopReq : s.lowerSt.stopReq = s.stopReq := rfl
@[simp] theorem lowerSt_written : s.lowerSt.written = s.written := rfl
@[simp] theorem lowerSt_cfg : s.lowerSt.cfg = s.cfg := rfl
@[simp] theorem lowerSt_keypad : s.lowerSt.keypad = s.keypad := rfl
@[simp] theorem lowerSt_display : s.lowerSt.display = s.display := rfl
@[simp] theorem lowerSt_random : s.lowerSt.random = s.random := rfl
@[simp] theorem lowerSt_draws : s.lowerSt.draws = s.draws := rfl
@[simp] theorem lowerSt_waiting : s.lowerSt.waiting = s.waiting := rfl
@[simp] theorem lowerSt_trace : s.lowerSt.trace = s.trace := rfl

@[simp] theorem emit_v (e : Event) : (s.emit e).v = s.v := rfl
@[simp] theorem emit_i (e : Event) : (s.emit e).i = s.i := rfl
@[simp] theorem emit_pc (e : Event) : (s.emit e).pc = s.pc := rfl
@[simp] theorem emit_sp (e : Event) : (s.emit e).sp = s.sp := rfl
@[simp] theorem emit_stack (e : Event) : (s.emit e).stack = s.stack := rfl
@[simp] theorem emit_dt (e : Event) : (s.emit e).dt = s.dt := rfl
@[simp] theorem emit_st (e : Event) : (s.emit e).st = s.st := rfl
@[simp] theorem emit_mem (e : Event) : (s.emit e).mem = s.mem := rfl
@[simp] theorem emit_pix (e : Event) : (s.emit e).pix = s.pix := rfl
@[simp] theorem emit_run (e : Event) : (s.emit e).run = s.run := rfl
@[simp] theorem emit_stopReq (e : Event) : (s.emit e).stopReq = s.stopReq := rfl
@[simp] theorem emit_written (e : Event) : (s.emit e).written = s.written := rfl
@[simp] theorem emit_cfg (e : Event) : (s.emit e).cfg = s.cfg := rfl
@[simp] theorem emit_keypad (e : Event) : (s.emit e).keypad = s.keypad := rfl
@[simp] theorem emit_display (e : Event) : (s.emit e).display = s.display := rfl
@[simp] theorem emit_random (e : Event) : (s.emit e).random = s.random := rfl
@[simp] theorem emit_draws (e : Event) : (s.emit e).draws = s.draws := rfl
@[simp] theorem emit_waiting (e : Event) : (s.emit e).waiting = s.waiting := rfl
@[simp] theorem emit_trace (e : Event) : (s.emit e).trace = e :: s.trace := rfl

@[simp] theorem requestStop_v : s.requestStop.v = s.v := rfl
@[simp] theorem requestStop_i : s.requestStop.i = s.i := rfl
@[simp] theorem requestStop_pc : s.requestStop.pc = s.pc := rfl
@[simp] theorem requestStop_sp : s.requestStop.sp = s.sp := rfl
@[simp] theorem requestStop_stack : s.requestStop.stack = s.stack := rfl
@[simp] theorem requestStop_dt : s.requestStop.dt = s.dt := rfl
@[simp] theorem requestStop_st : s.requestStop.st = s.st := rfl
@[simp] theorem requestStop_mem : s.requestStop.mem = s.mem := rfl
@[simp] theorem requestStop_pix : s.requestStop.pix = s.pix := rfl
@[simp] theorem requestStop_run : s.requestStop.run = s.run := rfl
@[simp] theorem requestStop_stopReq : s.requestStop.stopReq = true := rfl
@[simp] theorem requestStop_written : s.requestStop.written = s.written := rfl
@[simp] theorem requestStop_cfg : s.requestStop.cfg = s.cfg := rfl
@[simp] theorem requestStop_keypad : s.requestStop.keypad = s.keypad := rfl
@[simp] theorem requestStop_display : s.requestStop.display = s.display := rfl
@[simp] theorem requestStop_random : s.requestStop.random = s.random := rfl
@[simp] theorem requestStop_draws : s.requestStop.draws = s.draws := rfl
@[simp] theorem requestStop_waiting : s.requestStop.waiting = s.waiting := rfl
@[simp] theorem requestStop_trace : s.requestStop.trace = s.trace := rfl

end Updates

/-! ### The accessors after an update -/

section Accessors
variable (s : State)

@[simp] theorem vector_get_set {α : Type} {n : Nat} (w : Vector α n) (x y : Fin n) (b : α) :
    (w.set x b).get y = if y = x then b else w.get y := by
  simp only [Vector.get_eq_getElem, Vector.getElem_set, Fin.ext_iff]
  split <;> split <;> first | rfl | omega

theorem reg_setReg (x y : Reg) (b : Byte) : (s.setReg x b).reg y = if y = x then b else s.reg y := by
  simp [State.reg]

@[simp] theorem reg_setReg_same (x : Reg) (b : Byte) : (s.setReg x b).reg x = b := by simp [reg_setReg]

theorem reg_setReg_other {x y : Reg} (b : Byte) (h : y ≠ x) : (s.setReg x b).reg y = s.reg y := by
  simp [reg_setReg, h]

/-- After a mark an element's bit is 1 if it is the marked one, and as it was otherwise (R38). -/
@[simp] theorem has_mark (w : Written) (el el' : Element) :
    (w.mark el).has el' = if el' = el then true else w.has el' := by
  cases el <;> cases el' <;> simp [Written.mark, Written.has]

theorem stackEntry_setStackEntry (j k : Nat) (w : Word) (h : j < 16) :
    (s.setStackEntry j w).stackEntry k = if k = j then w else s.stackEntry k := by
  simp only [State.stackEntry, setStackEntry_stack, Vector.getElem?_setIfInBounds]
  by_cases hk : k = j
  · subst hk; simp [h]
  · simp [hk, Ne.symm hk]

/-- What an accessor reads depends on its fields alone. -/
theorem reg_congr {s t : State} (h : t.v = s.v) (x : Reg) : t.reg x = s.reg x := by simp [State.reg, h]

theorem stackEntry_congr {s t : State} (h : t.stack = s.stack) (j : Nat) : t.stackEntry j = s.stackEntry j := by
  simp [State.stackEntry, h]

theorem byteAt_congr {s t : State} (hc : t.cfg = s.cfg) (hm : t.mem = s.mem) (a : Nat) : t.byteAt a = s.byteAt a := by
  simp [State.byteAt, hc, hm]

theorem readable_congr {s t : State} (hc : t.cfg = s.cfg) (hw : t.written = s.written) (el : Element) :
    t.readable el = s.readable el := by simp [State.readable, hc, hw]

/-- Under UNINIT_POLICY = Zero every element is readable (R38). -/
theorem readable_zero (h : s.cfg.uninit = .zero) (el : Element) : s.readable el = true := by simp [State.readable, h]

theorem readable_eq_false (el : Element) :
    s.readable el = false ↔ s.cfg.uninit = .fault ∧ s.written.has el = false := by
  unfold State.readable; split <;> simp_all

end Accessors

end Sys2Proof.Machine
end

