-- ==== Sys2Proof/Laws/Memory.lean ====
section
/-! SUPPORT. Laws of memory: a read after a write, what a write leaves alone, and the canonical form kept by every operation;
the range check of R51 and R52. -/

namespace Sys2Proof.Machine

variable {font : Font} {m : Memory}

/-! ### Lookup -/

theorem lookup_erase {a b : Nat} :
    Memory.lookup (Memory.erase m a) b = if b = a then none else Memory.lookup m b := by
  induction m with
  | nil => simp [Memory.erase, Memory.lookup]
  | cons c m ih =>
    simp only [Memory.erase] at ih ⊢
    by_cases hc : c.1 = a
    · by_cases hb : b = a
      · simpa [hc, hb] using ih
      · have : c.1 ≠ b := by omega
        simpa [Memory.lookup, hc, hb, this, Ne.symm hb] using ih
    · by_cases hb : c.1 = b
      · subst hb; simp [Memory.lookup, hc]
      · simpa [Memory.lookup, hc, hb] using ih

theorem lookup_insert {a b : Nat} {v : Byte} :
    Memory.lookup (Memory.insert m a v) b = if b = a then some v else Memory.lookup m b := by
  induction m with
  | nil => simp only [Memory.insert, Memory.lookup, eq_comm]
  | cons c m ih =>
    unfold Memory.insert
    split
    · simp only [Memory.lookup, eq_comm]
    · split
      · next h =>
        subst h
        by_cases hb : b = c.1
        · simp [Memory.lookup, hb]
        · simp [Memory.lookup, hb, Ne.symm hb]
      · next h1 h2 =>
        by_cases hb : c.1 = b
        · have : b ≠ a := by omega
          simp [Memory.lookup, hb, this]
        · simp [Memory.lookup, hb, ih]

/-! ### The canonical form -/

theorem mem_of_mem_erase {a : Nat} {c : Host.Cell} (h : c ∈ Memory.erase m a) : c ∈ m :=
  List.mem_of_mem_filter h

theorem mem_of_mem_insert {a : Nat} {v : Byte} {c : Host.Cell} (h : c ∈ Memory.insert m a v) : c = (a, v) ∨ c ∈ m := by
  induction m with
  | nil => simp [Memory.insert] at h; simp [h]
  | cons d m ih =>
    unfold Memory.insert at h
    split at h
    · simpa using h
    · split at h
      · rcases List.mem_cons.1 h with h | h
        · exact .inl h
        · exact .inr (by simp [h])
      · rcases List.mem_cons.1 h with rfl | h
        · exact .inr (by simp)
        · rcases ih h with h | h
          · exact .inl h
          · exact .inr (by simp [h])

theorem pairwise_erase {a : Nat} (hm : m.Pairwise (fun c d => c.1 < d.1)) :
    (Memory.erase m a).Pairwise (fun c d => c.1 < d.1) := hm.filter _

theorem pairwise_insert {a : Nat} {v : Byte} (hm : m.Pairwise (fun c d => c.1 < d.1)) :
    (Memory.insert m a v).Pairwise (fun c d => c.1 < d.1) := by
  induction m with
  | nil => simp [Memory.insert]
  | cons c m ih =>
    have hc := List.pairwise_cons.1 hm
    unfold Memory.insert
    split
    · next h =>
      refine List.pairwise_cons.2 ⟨fun d hd => ?_, hm⟩
      rcases List.mem_cons.1 hd with rfl | hd
      · exact h
      · exact h.trans (hc.1 d hd)
    · split
      · next h => exact List.pairwise_cons.2 ⟨fun d hd => h ▸ hc.1 d hd, hc.2⟩
      · refine List.pairwise_cons.2 ⟨fun d hd => ?_, ih hc.2⟩
        rcases mem_of_mem_insert hd with rfl | hd
        · show c.1 < a; omega
        · exact hc.1 d hd

/-- The empty memory of a created machine is canonical. -/
theorem wf_nil : Memory.wf font [] := ⟨List.Pairwise.nil, by simp⟩

theorem wf_create (p : Params) : Memory.wf (State.create p).cfg.font (State.create p).mem := wf_nil

/-- The memory after reset is canonical. -/
theorem wf_reset : Memory.wf State.reset.cfg.font State.reset.mem := wf_create _

/-- A write inside the address space keeps the canonical form. -/
theorem wf_write {a : Nat} {b : Byte} (hm : Memory.wf font m) (ha : a ≤ 0xFFF) : Memory.wf font (Memory.write font m a b) := by
  unfold Memory.write
  split
  · exact ⟨pairwise_erase hm.1, fun c hc => hm.2 c (mem_of_mem_erase hc)⟩
  · next hb =>
    refine ⟨pairwise_insert hm.1, fun c hc => ?_⟩
    rcases mem_of_mem_insert hc with rfl | hc
    · exact ⟨ha, hb⟩
    · exact hm.2 c hc

/-- A write of consecutive bytes inside the address space keeps the canonical form. -/
theorem wf_writeBytes {a : Nat} {bs : List Byte} (hm : Memory.wf font m) (ha : a + bs.length ≤ 0x1000) :
    Memory.wf font (Memory.writeBytes font m a bs) := by
  induction bs generalizing m a with
  | nil => exact hm
  | cons b bs ih =>
    simp only [List.length_cons] at ha
    exact ih (wf_write hm (by omega)) (by omega)

/-! ### Reading after writing -/

/-- A read after a write: the byte written at its address, every other address left alone. -/
theorem read_write {a c : Nat} {b : Byte} :
    Memory.read font (Memory.write font m a b) c = if c = a then b else Memory.read font m c := by
  unfold Memory.read Memory.write
  split
  · next h => rw [lookup_erase]; split <;> simp_all
  · rw [lookup_insert]; split <;> rfl

theorem read_writeBytes_outside {a c : Nat} {bs : List Byte} (h : c < a ∨ a + bs.length ≤ c) :
    Memory.read font (Memory.writeBytes font m a bs) c = Memory.read font m c := by
  induction bs generalizing m a with
  | nil => rfl
  | cons b bs ih =>
    simp only [List.length_cons] at h
    rw [Memory.writeBytes, ih (by omega), read_write, if_neg (by omega)]

theorem read_writeBytes_inside {a k : Nat} {bs : List Byte} (h : k < bs.length) :
    Memory.read font (Memory.writeBytes font m a bs) (a + k) = bs[k] := by
  induction bs generalizing m a k with
  | nil => simp at h
  | cons b bs ih =>
    rw [Memory.writeBytes]
    cases k with
    | zero => rw [read_writeBytes_outside (by omega), read_write, if_pos (by omega)]; rfl
    | succ k =>
      rw [show a + (k + 1) = a + 1 + k by omega, ih (by simpa using h)]; rfl

/-! ### The range check -/

/-- Nothing is out of range exactly when the access is empty or its last byte exists (R51). -/
theorem firstOutside_eq_none {addr n : Nat} : firstOutside addr n = none ↔ n = 0 ∨ addr + n ≤ 0x1000 := by
  simp only [firstOutside, List.find?_eq_none, List.mem_map, List.mem_range, decide_eq_true_eq]
  constructor
  · intro h
    rcases Nat.eq_zero_or_pos n with h0 | h0
    · exact .inl h0
    · have := h (addr + (n - 1)) ⟨n - 1, by omega, rfl⟩
      omega
  · rintro h _ ⟨k, hk, rfl⟩; omega

/-- Otherwise the first such address is the first above 0xFFF (R51). -/
theorem firstOutside_eq_some {addr n : Nat} (h : 0 < n) (h' : 0x1000 < addr + n) :
    firstOutside addr n = some (max 0x1000 addr) := by
  induction n with
  | zero => omega
  | succ n ih =>
    have split : firstOutside addr (n + 1) = (firstOutside addr n).or (if 0xFFF < addr + n then some (addr + n) else none) := by
      simp only [firstOutside, List.range_succ, List.map_append, List.find?_append]
      by_cases hn : 0xFFF < addr + n <;> simp [hn]
    rw [split]
    by_cases hn : n = 0 ∨ addr + n ≤ 0x1000
    · rw [firstOutside_eq_none.2 hn, if_pos (by omega), Option.none_or]; congr 1; omega
    · rw [ih (by omega) (by omega)]; rfl

end Sys2Proof.Machine
end

