-- ==== Sys2Proof/Laws/Ops.lean ====
section
/-! SUPPORT. For each shared operation, once, everything it can do: provers cite these instead of unfolding the operation. -/

namespace Sys2Proof.Machine

variable {s t : State}

/-! ### Operands (R38) -/

theorem need_of_readable {el : Element} {k : Result} (h : s.readable el = true) : need s el k = k := if_pos h

theorem need_of_unwritten {el : Element} {k : Result} (h : s.readable el = false) :
    need s el k = .fault (.uninitRead el s.pc) := if_neg (by simp [h])

/-- A read either goes on, or stops with UninitRead. -/
theorem need_cases (s : State) (el : Element) (k : Result) :
    (s.readable el = true ∧ need s el k = k) ∨
    (s.readable el = false ∧ need s el k = .fault (.uninitRead el s.pc)) := by
  cases h : s.readable el
  · exact .inr ⟨rfl, need_of_unwritten h⟩
  · exact .inl ⟨rfl, need_of_readable h⟩

theorem need_next {el : Element} {k : Result} : need s el k = .next t ↔ s.readable el = true ∧ k = .next t := by
  rcases need_cases s el k with ⟨h, e⟩ | ⟨h, e⟩ <;> simp [h, e]

theorem needReg_next {x : Reg} {k : Byte → Result} :
    needReg s x k = .next t ↔ s.readable (.v x) = true ∧ k (s.reg x) = .next t := need_next

theorem needI_next {k : Word → Result} : needI s k = .next t ↔ s.readable .i = true ∧ k s.i = .next t := need_next

theorem needDt_next {k : Byte → Result} : needDt s k = .next t ↔ s.readable .dt = true ∧ k s.dt = .next t := need_next

/-- Reading a block goes on with its values where every register of it is readable. -/
theorem needRegs_of_readable {rs : List Reg} {k : List Byte → Result} (h : ∀ r ∈ rs, s.readable (.v r) = true) :
    needRegs s rs k = k (rs.map s.reg) := by
  induction rs generalizing k with
  | nil => rfl
  | cons r rs ih =>
    rw [needRegs, needReg, need_of_readable (h r (by simp)), ih fun q hq => h q (by simp [hq])]; rfl

/-- Otherwise it stops with UninitRead of a register of the block. -/
theorem needRegs_of_unwritten {rs : List Reg} {k : List Byte → Result} (h : ∃ r ∈ rs, s.readable (.v r) = false) :
    ∃ r ∈ rs, s.readable (.v r) = false ∧ needRegs s rs k = .fault (.uninitRead (.v r) s.pc) := by
  induction rs generalizing k with
  | nil => simp at h
  | cons r rs ih =>
    cases hr : s.readable (.v r)
    · exact ⟨r, by simp, hr, need_of_unwritten hr⟩
    · obtain ⟨q, hq, hq'⟩ := h
      have : q ∈ rs := by
        rcases List.mem_cons.1 hq with rfl | hq
        · simp [hr] at hq'
        · exact hq
      obtain ⟨p, hp, hp', e⟩ := ih (k := fun as => k (s.reg r :: as)) ⟨q, this, hq'⟩
      exact ⟨p, by simp [hp], hp', by rw [needRegs, needReg, need_of_readable hr, e]⟩

theorem needRegs_cases (s : State) (rs : List Reg) (k : List Byte → Result) :
    ((∀ r ∈ rs, s.readable (.v r) = true) ∧ needRegs s rs k = k (rs.map s.reg)) ∨
    ∃ r ∈ rs, s.readable (.v r) = false ∧ needRegs s rs k = .fault (.uninitRead (.v r) s.pc) := by
  by_cases h : ∀ r ∈ rs, s.readable (.v r) = true
  · exact .inl ⟨h, needRegs_of_readable h⟩
  · push Not at h
    obtain ⟨r, hr, hr'⟩ := h
    exact .inr (needRegs_of_unwritten ⟨r, hr, by simpa using hr'⟩)

/-! ### Memory (R51, R52) -/

theorem memRead_in_range {addr n : Nat} {k : List Byte → Result} (h : n = 0 ∨ addr + n ≤ 0x1000) :
    memRead s addr n k = k ((List.range n).map fun j => s.byteAt (addr + j)) := by
  simp only [memRead, firstOutside_eq_none.2 h]

theorem memRead_out_of_range {addr n : Nat} {k : List Byte → Result} (h : 0 < n) (h' : 0x1000 < addr + n) :
    memRead s addr n k = .fault (.memoryOutOfRange (max 0x1000 addr) s.pc) := by
  simp only [memRead, firstOutside_eq_some h h']

theorem memRead_cases (s : State) (addr n : Nat) (k : List Byte → Result) :
    ((n = 0 ∨ addr + n ≤ 0x1000) ∧ memRead s addr n k = k ((List.range n).map fun j => s.byteAt (addr + j))) ∨
    (0 < n ∧ 0x1000 < addr + n ∧ memRead s addr n k = .fault (.memoryOutOfRange (max 0x1000 addr) s.pc)) := by
  by_cases h : n = 0 ∨ addr + n ≤ 0x1000
  · exact .inl ⟨h, memRead_in_range h⟩
  · exact .inr ⟨by omega, by omega, memRead_out_of_range (by omega) (by omega)⟩

theorem memWrite_in_range {addr : Nat} {v : List Byte} {k : State → Result} (h : v.length = 0 ∨ addr + v.length ≤ 0x1000) :
    memWrite s addr v k = k (s.setMem (Memory.writeBytes s.cfg.font s.mem addr v)) := by
  simp only [memWrite, firstOutside_eq_none.2 h]

theorem memWrite_out_of_range {addr : Nat} {v : List Byte} {k : State → Result} (h : 0 < v.length)
    (h' : 0x1000 < addr + v.length) : memWrite s addr v k = .fault (.memoryOutOfRange (max 0x1000 addr) s.pc) := by
  simp only [memWrite, firstOutside_eq_some h h']

theorem memWrite_cases (s : State) (addr : Nat) (v : List Byte) (k : State → Result) :
    ((v.length = 0 ∨ addr + v.length ≤ 0x1000) ∧
      memWrite s addr v k = k (s.setMem (Memory.writeBytes s.cfg.font s.mem addr v))) ∨
    (0 < v.length ∧ 0x1000 < addr + v.length ∧
      memWrite s addr v k = .fault (.memoryOutOfRange (max 0x1000 addr) s.pc)) := by
  by_cases h : v.length = 0 ∨ addr + v.length ≤ 0x1000
  · exact .inl ⟨h, memWrite_in_range h⟩
  · exact .inr ⟨by omega, by omega, memWrite_out_of_range (by omega) (by omega)⟩

/-- A byte inside what was written. -/
theorem byteAt_written {addr k : Nat} {v : List Byte} (h : k < v.length) :
    (s.setMem (Memory.writeBytes s.cfg.font s.mem addr v)).byteAt (addr + k) = v[k] := read_writeBytes_inside h

/-- A byte outside it. -/
theorem byteAt_not_written {addr a : Nat} {v : List Byte} (h : a < addr ∨ addr + v.length ≤ a) :
    (s.setMem (Memory.writeBytes s.cfg.font s.mem addr v)).byteAt a = s.byteAt a := read_writeBytes_outside h

/-! ### The return stack (R121, R123) -/

theorem pushReturn_cases (s : State) (k : State → Result) :
    (s.sp = 15 ∧ pushReturn s k = .fault (.stackOverflow s.pc)) ∨
    (s.sp.toNat < 15 ∧ pushReturn s k = k ((s.setSp (s.sp + 1)).setStackEntry (s.sp.toNat + 1) s.pc)) ∨
    (15 < s.sp.toNat ∧ pushReturn s k = .refused (.stackPointerOutOfRange s.sp)) := by
  unfold pushReturn
  by_cases h : s.sp = 15
  · exact .inl ⟨h, if_pos h⟩
  · have : s.sp.toNat ≠ 15 := fun e => h (BitVec.eq_of_toNat_eq e)
    rw [if_neg h]
    by_cases h' : s.sp.toNat < 15
    · exact .inr (.inl ⟨h', if_pos h'⟩)
    · exact .inr (.inr ⟨by omega, if_neg h'⟩)

theorem popReturn_cases (s : State) (k : Word → State → Result) :
    (s.sp = 0 ∧ popReturn s k = .fault (.stackUnderflow s.pc)) ∨
    (1 ≤ s.sp.toNat ∧ s.sp.toNat ≤ 15 ∧ popReturn s k = k (s.stackEntry s.sp.toNat) (s.setSp (s.sp - 1))) ∨
    (15 < s.sp.toNat ∧ popReturn s k = .refused (.stackPointerOutOfRange s.sp)) := by
  unfold popReturn
  by_cases h : s.sp = 0
  · exact .inl ⟨h, if_pos h⟩
  · have : s.sp.toNat ≠ 0 := fun e => h (BitVec.eq_of_toNat_eq e)
    rw [if_neg h]
    by_cases h' : s.sp.toNat ≤ 15
    · exact .inr (.inl ⟨by omega, h', if_pos h'⟩)
    · exact .inr (.inr ⟨by omega, if_neg h'⟩)

/-! ### The host's interfaces (R8) -/

/-- A key query waits, continues with a key or without one, quits, or faults (R190). -/
theorem keyQuery_cases (s : State) (k : Option KeyCode → State → Result) :
    (s.keypad.ask = none ∧ keyQuery s k = .next (s.setWaiting (some .getKey))) ∨
    (∃ c rest, s.keypad.ask = some (.key c, rest) ∧ keyQuery s k = k (some c) (s.setKeypad rest)) ∨
    (∃ rest, s.keypad.ask = some (.noKey, rest) ∧ s.cfg.noKey = .noPress ∧ keyQuery s k = k none (s.setKeypad rest)) ∨
    (∃ rest, s.keypad.ask = some (.noKey, rest) ∧ s.cfg.noKey = .failure ∧
      keyQuery s k = .fault (.keypadFailure .noKey s.pc)) ∨
    (∃ rest, s.keypad.ask = some (.quit, rest) ∧ keyQuery s k = .next ((s.setKeypad rest).setRun .stoppedClean)) ∨
    (∃ e rest, s.keypad.ask = some (.error e, rest) ∧ keyQuery s k = .fault (.keypadFailure (.host e) s.pc)) := by
  unfold keyQuery
  cases h : s.keypad.ask with
  | none => exact .inl ⟨rfl, rfl⟩
  | some p =>
    obtain ⟨a, rest⟩ := p
    cases a with
    | key c => exact .inr (.inl ⟨c, rest, rfl, rfl⟩)
    | quit => exact .inr (.inr (.inr (.inr (.inl ⟨rest, rfl, rfl⟩))))
    | error e => exact .inr (.inr (.inr (.inr (.inr ⟨e, rest, rfl, rfl⟩))))
    | noKey =>
      cases hn : s.cfg.noKey with
      | noPress => exact .inr (.inr (.inl ⟨rest, rfl, rfl, by simp⟩))
      | failure => exact .inr (.inr (.inr (.inl ⟨rest, rfl, rfl, by simp⟩)))

/-- A render request is recorded with its snapshot, and then goes on with an `Ok` at hand, or waits (R105, R106). -/
theorem render_cases (s : State) (k : State → Result) :
    (∃ rest, s.display.ask = some (.ok, rest) ∧ render s k = k ((s.emit (.render s.pix)).setDisplay rest)) ∨
    ((∀ rest, s.display.ask ≠ some (.ok, rest)) ∧
      render s k = .next ((s.emit (.render s.pix)).setWaiting (some .render))) := by
  unfold render
  cases h : s.display.ask with
  | none => exact .inr ⟨by simp, rfl⟩
  | some p =>
    obtain ⟨a, rest⟩ := p
    cases a with
    | ok => exact .inl ⟨rest, rfl, rfl⟩
    | error e => exact .inr ⟨by simp, rfl⟩

/-- The answer to a render request that has been made is awaited, goes on, or faults (R105, R106, R220). -/
theorem renderAnswer_cases (s : State) (k : State → Result) :
    (s.display.ask = none ∧ renderAnswer s k = .next (s.setWaiting (some .render))) ∨
    (∃ rest, s.display.ask = some (.ok, rest) ∧ renderAnswer s k = k (s.setDisplay rest)) ∨
    (∃ e rest, s.display.ask = some (.error e, rest) ∧ renderAnswer s k = .fault (.displayFailure e s.pc)) := by
  unfold renderAnswer
  cases h : s.display.ask with
  | none => exact .inl ⟨rfl, rfl⟩
  | some p =>
    obtain ⟨a, rest⟩ := p
    cases a with
    | ok => exact .inr (.inl ⟨rest, rfl, rfl⟩)
    | error e => exact .inr (.inr ⟨e, rest, rfl, rfl⟩)

/-- A draw takes the host's byte or a free value, and always goes on (R154). -/
theorem drawByte_cases (s : State) (k : Byte → State → Result) :
    (∃ r rest, s.random.ask = some (r, rest) ∧ drawByte s k = k r (s.setRandom rest)) ∨
    (s.random.ask = none ∧ drawByte s k = k (Config.freeRandomByte s.draws) s.countDraw) := by
  unfold drawByte
  cases h : s.random.ask with
  | none => exact .inr ⟨rfl, rfl⟩
  | some p => exact .inl ⟨p.1, p.2, rfl, rfl⟩

/-- The four ends of WriteResultAndFlag (R141). -/
theorem writeResultAndFlag_cases (s : State) (x : Reg) (result : Byte) (flag : Bool) :
    (x ≠ vf ∧ writeResultAndFlag s x result flag = (s.setReg x result).setReg vf (flagByte flag)) ∨
    (x = vf ∧ s.cfg.vfOrder = .flagWins ∧ writeResultAndFlag s x result flag = s.setReg vf (flagByte flag)) ∨
    (x = vf ∧ s.cfg.vfOrder = .resultWins ∧ writeResultAndFlag s x result flag = s.setReg vf result) ∨
    (x = vf ∧ s.cfg.vfOrder = .any ∧
      writeResultAndFlag s x result flag = (s.setReg vf (Config.freeFlagByte s.draws)).countDraw) := by
  unfold writeResultAndFlag
  by_cases h : x = vf
  · cases ho : s.cfg.vfOrder <;> simp [h]
  · simp [h]

/-! ### The same, read backwards from how the operation ended: for proofs about what a given outcome came from -/

section Ends
variable {o : Result}

theorem need_ends {el : Element} {k : Result} (h : need s el k = o) :
    (s.readable el = true ∧ k = o) ∨ (s.readable el = false ∧ o = .fault (.uninitRead el s.pc)) := by
  rcases need_cases s el k with ⟨r, e⟩ | ⟨r, e⟩ <;> rw [e] at h
  · exact .inl ⟨r, h⟩
  · exact .inr ⟨r, h.symm⟩

theorem needRegs_ends {rs : List Reg} {k : List Byte → Result} (h : needRegs s rs k = o) :
    ((∀ r ∈ rs, s.readable (.v r) = true) ∧ k (rs.map s.reg) = o) ∨
    ∃ r ∈ rs, s.readable (.v r) = false ∧ o = .fault (.uninitRead (.v r) s.pc) := by
  rcases needRegs_cases s rs k with ⟨r, e⟩ | ⟨r, hr, hr', e⟩ <;> rw [e] at h
  · exact .inl ⟨r, h⟩
  · exact .inr ⟨r, hr, hr', h.symm⟩

theorem memRead_ends {addr n : Nat} {k : List Byte → Result} (h : memRead s addr n k = o) :
    ((n = 0 ∨ addr + n ≤ 0x1000) ∧ k ((List.range n).map fun j => s.byteAt (addr + j)) = o) ∨
    (0 < n ∧ 0x1000 < addr + n ∧ o = .fault (.memoryOutOfRange (max 0x1000 addr) s.pc)) := by
  rcases memRead_cases s addr n k with ⟨r, e⟩ | ⟨r, r', e⟩ <;> rw [e] at h
  · exact .inl ⟨r, h⟩
  · exact .inr ⟨r, r', h.symm⟩

theorem memWrite_ends {addr : Nat} {v : List Byte} {k : State → Result} (h : memWrite s addr v k = o) :
    ((v.length = 0 ∨ addr + v.length ≤ 0x1000) ∧ k (s.setMem (Memory.writeBytes s.cfg.font s.mem addr v)) = o) ∨
    (0 < v.length ∧ 0x1000 < addr + v.length ∧ o = .fault (.memoryOutOfRange (max 0x1000 addr) s.pc)) := by
  rcases memWrite_cases s addr v k with ⟨r, e⟩ | ⟨r, r', e⟩ <;> rw [e] at h
  · exact .inl ⟨r, h⟩
  · exact .inr ⟨r, r', h.symm⟩

theorem pushReturn_ends {k : State → Result} (h : pushReturn s k = o) :
    (s.sp = 15 ∧ o = .fault (.stackOverflow s.pc)) ∨
    (s.sp.toNat < 15 ∧ k ((s.setSp (s.sp + 1)).setStackEntry (s.sp.toNat + 1) s.pc) = o) ∨
    (15 < s.sp.toNat ∧ o = .refused (.stackPointerOutOfRange s.sp)) := by
  rcases pushReturn_cases s k with ⟨r, e⟩ | ⟨r, e⟩ | ⟨r, e⟩ <;> rw [e] at h
  · exact .inl ⟨r, h.symm⟩
  · exact .inr (.inl ⟨r, h⟩)
  · exact .inr (.inr ⟨r, h.symm⟩)

theorem popReturn_ends {k : Word → State → Result} (h : popReturn s k = o) :
    (s.sp = 0 ∧ o = .fault (.stackUnderflow s.pc)) ∨
    (1 ≤ s.sp.toNat ∧ s.sp.toNat ≤ 15 ∧ k (s.stackEntry s.sp.toNat) (s.setSp (s.sp - 1)) = o) ∨
    (15 < s.sp.toNat ∧ o = .refused (.stackPointerOutOfRange s.sp)) := by
  rcases popReturn_cases s k with ⟨r, e⟩ | ⟨r, r', e⟩ | ⟨r, e⟩ <;> rw [e] at h
  · exact .inl ⟨r, h.symm⟩
  · exact .inr (.inl ⟨r, r', h⟩)
  · exact .inr (.inr ⟨r, h.symm⟩)

theorem keyQuery_ends {k : Option KeyCode → State → Result} (h : keyQuery s k = o) :
    (s.keypad.ask = none ∧ o = .next (s.setWaiting (some .getKey))) ∨
    (∃ c rest, s.keypad.ask = some (.key c, rest) ∧ k (some c) (s.setKeypad rest) = o) ∨
    (∃ rest, s.keypad.ask = some (.noKey, rest) ∧ s.cfg.noKey = .noPress ∧ k none (s.setKeypad rest) = o) ∨
    (∃ rest, s.keypad.ask = some (.noKey, rest) ∧ s.cfg.noKey = .failure ∧ o = .fault (.keypadFailure .noKey s.pc)) ∨
    (∃ rest, s.keypad.ask = some (.quit, rest) ∧ o = .next ((s.setKeypad rest).setRun .stoppedClean)) ∨
    (∃ e rest, s.keypad.ask = some (.error e, rest) ∧ o = .fault (.keypadFailure (.host e) s.pc)) := by
  rcases keyQuery_cases s k with ⟨r, e⟩ | ⟨c, q, r, e⟩ | ⟨q, r, r', e⟩ | ⟨q, r, r', e⟩ | ⟨q, r, e⟩ | ⟨c, q, r, e⟩ <;> rw [e] at h
  · exact .inl ⟨r, h.symm⟩
  · exact .inr (.inl ⟨c, q, r, h⟩)
  · exact .inr (.inr (.inl ⟨q, r, r', h⟩))
  · exact .inr (.inr (.inr (.inl ⟨q, r, r', h.symm⟩)))
  · exact .inr (.inr (.inr (.inr (.inl ⟨q, r, h.symm⟩))))
  · exact .inr (.inr (.inr (.inr (.inr ⟨c, q, r, h.symm⟩))))

theorem render_ends {k : State → Result} (h : render s k = o) :
    (∃ rest, s.display.ask = some (.ok, rest) ∧ k ((s.emit (.render s.pix)).setDisplay rest) = o) ∨
    ((∀ rest, s.display.ask ≠ some (.ok, rest)) ∧ o = .next ((s.emit (.render s.pix)).setWaiting (some .render))) := by
  rcases render_cases s k with ⟨q, r, e⟩ | ⟨r, e⟩ <;> rw [e] at h
  · exact .inl ⟨q, r, h⟩
  · exact .inr ⟨r, h.symm⟩

theorem renderAnswer_ends {k : State → Result} (h : renderAnswer s k = o) :
    (s.display.ask = none ∧ o = .next (s.setWaiting (some .render))) ∨
    (∃ rest, s.display.ask = some (.ok, rest) ∧ k (s.setDisplay rest) = o) ∨
    (∃ e rest, s.display.ask = some (.error e, rest) ∧ o = .fault (.displayFailure e s.pc)) := by
  rcases renderAnswer_cases s k with ⟨r, e⟩ | ⟨q, r, e⟩ | ⟨c, q, r, e⟩ <;> rw [e] at h
  · exact .inl ⟨r, h.symm⟩
  · exact .inr (.inl ⟨q, r, h⟩)
  · exact .inr (.inr ⟨c, q, r, h.symm⟩)

theorem drawByte_ends {k : Byte → State → Result} (h : drawByte s k = o) :
    (∃ r rest, s.random.ask = some (r, rest) ∧ k r (s.setRandom rest) = o) ∨
    (s.random.ask = none ∧ k (Config.freeRandomByte s.draws) s.countDraw = o) := by
  rcases drawByte_cases s k with ⟨r, q, hr, e⟩ | ⟨hr, e⟩ <;> rw [e] at h
  · exact .inl ⟨r, q, hr, h⟩
  · exact .inr ⟨hr, h⟩

end Ends

/-! ### The block of registers (R174, R175) -/

theorem regsUpTo_length (x : Reg) : (regsUpTo x).length = x.val + 1 := by
  simp only [regsUpTo, List.length_take]; have := x.isLt; simp

theorem mem_regsUpTo {x y : Reg} : y ∈ regsUpTo x ↔ y ≤ x := by revert x y; decide

theorem regsUpTo_getElem (x : Reg) (j : Nat) (h : j < (regsUpTo x).length) : ((regsUpTo x)[j]).val = j := by
  rw [regsUpTo_length] at h
  have hx := x.isLt
  have : j < 16 := by omega
  simp only [regsUpTo, List.getElem_take]
  interval_cases j <;> rfl

/-! ### The cycle (R210, R223) -/

/-- What the delay timer's tick leaves: DT one lower, or the state as it was (R223). -/
theorem delayTick_cases (s : State) :
    (s.readable .dt = true ∧ s.dt ≠ 0 ∧ delayTick s = s.lowerDt) ∨
    ((s.readable .dt = false ∨ s.dt = 0) ∧ delayTick s = s) := by
  unfold delayTick
  by_cases h : s.readable .dt = true ∧ s.dt ≠ 0
  · exact .inl ⟨h.1, h.2, if_pos h⟩
  · refine .inr ⟨?_, if_neg h⟩
    cases hr : s.readable .dt <;> simp_all

/-- What the sound timer's tick leaves: ST one lower, with the cue from 1 to 0, or the state as it was (R223, R224). -/
theorem soundTick_cases (s : State) :
    (s.readable .st = true ∧ s.st = 1 ∧ soundTick s = s.lowerSt.emit .cue) ∨
    (s.readable .st = true ∧ s.st ≠ 0 ∧ s.st ≠ 1 ∧ soundTick s = s.lowerSt) ∨
    ((s.readable .st = false ∨ s.st = 0) ∧ soundTick s = s) := by
  unfold soundTick
  by_cases h : s.readable .st = true ∧ s.st ≠ 0
  · by_cases h1 : s.st = 1
    · exact .inl ⟨h.1, h1, by rw [if_pos h, if_pos h1]⟩
    · exact .inr (.inl ⟨h.1, h.2, h1, by rw [if_pos h, if_neg h1]⟩)
  · refine .inr (.inr ⟨?_, if_neg h⟩)
    cases hr : s.readable .st <;> simp_all

/-- The timer decrement writes DT, ST and the trace, and nothing else (R223). -/
theorem timerDecrement_writes (t : State) : ∃ d u e, timerDecrement t = { t with dt := d, st := u, trace := e } := by
  unfold timerDecrement
  rcases delayTick_cases t with ⟨_, _, e⟩ | ⟨_, e⟩ <;> rw [e]
  · rcases soundTick_cases t.lowerDt with ⟨_, _, e⟩ | ⟨_, _, _, e⟩ | ⟨_, e⟩ <;> rw [e] <;> exact ⟨_, _, _, rfl⟩
  · rcases soundTick_cases t with ⟨_, _, e⟩ | ⟨_, _, _, e⟩ | ⟨_, e⟩ <;> rw [e] <;> exact ⟨_, _, _, rfl⟩

/-- A fetch hands over the big-endian word at PC, or faults at the first byte out of range (R53, R70). -/
theorem fetch_cases (s : State) (k : Word → Result) :
    (s.pc.toNat ≤ 0xFFE ∧ fetch s k = k (wordOfBytes (s.byteAt s.pc.toNat) (s.byteAt (s.pc.toNat + 1)))) ∨
    (0xFFF ≤ s.pc.toNat ∧ fetch s k = .fault (.memoryOutOfRange (max 0x1000 s.pc.toNat) s.pc)) := by
  unfold fetch
  rcases memRead_cases s s.pc.toNat 2
    (fun bs => k (wordOfBytes (bs.getD 0 0) (bs.getD 1 0))) with ⟨h, e⟩ | ⟨_, h, e⟩
  · refine .inl ⟨by omega, ?_⟩
    rw [e]; rfl
  · exact .inr ⟨by omega, e⟩

/-- Fetch, decode and execute end in one of three ways (R210): the fetch faults, the word is unknown, or an instruction runs. -/
theorem runInstruction_cases (execute : Instr → State → Result) (s : State) :
    (0xFFF ≤ s.pc.toNat ∧ runInstruction execute s = .fault (.memoryOutOfRange (max 0x1000 s.pc.toNat) s.pc)) ∨
    (s.pc.toNat ≤ 0xFFE ∧ ∃ w, w = wordOfBytes (s.byteAt s.pc.toNat) (s.byteAt (s.pc.toNat + 1)) ∧
      ((∃ why, decodeWord w = .rejected why ∧ runInstruction execute s = .fault (.unknownOpcode w s.pc)) ∨
        ∃ i, decodeWord w = .instr i ∧ runInstruction execute s = endCycle (execute i s))) := by
  rcases fetch_cases s (fun w => match decodeWord w with
    | .instr i => endCycle (execute i s)
    | .rejected _ => .fault (.unknownOpcode w s.pc)) with ⟨h, e⟩ | ⟨h, e⟩
  · refine .inr ⟨h, _, rfl, ?_⟩
    cases d : decodeWord (wordOfBytes (s.byteAt s.pc.toNat) (s.byteAt (s.pc.toNat + 1))) with
    | instr i => rw [d] at e; exact .inr ⟨i, rfl, e⟩
    | rejected why => rw [d] at e; exact .inl ⟨why, rfl, e⟩
  · exact .inl ⟨h, e⟩

/-- A step is that of a stopped core, the observation of a stop request, a run of the instruction at PC (from its start, or
taken up at its unanswered key query), or the answer to a render request (R105, R190, R210, R216). -/
theorem step_cases (s : State) :
    (s.run ≠ .running ∧ step s = .next s) ∨
    (s.run = .running ∧ s.waiting = none ∧ s.stopReq = true ∧ step s = .next (s.setRun .stoppedClean)) ∨
    (s.run = .running ∧ ((s.waiting = none ∧ s.stopReq = false) ∨ s.waiting = some .getKey) ∧
      step s = runInstruction exec (s.setWaiting none)) ∨
    (s.run = .running ∧ s.waiting = some .render ∧ step s = endCycle (resumeDraw (s.setWaiting none))) := by
  unfold step cycle
  cases hr : s.run with
  | running =>
    cases hw : s.waiting with
    | none =>
      have same : s.setWaiting none = s := by cases s; cases hw; rfl
      cases hq : s.stopReq with
      | true => exact .inr (.inl ⟨rfl, rfl, rfl, rfl⟩)
      | false => exact .inr (.inr (.inl ⟨rfl, .inl ⟨rfl, rfl⟩, by rw [same]; rfl⟩))
    | some q =>
      cases q with
      | getKey => exact .inr (.inr (.inl ⟨rfl, .inr rfl, rfl⟩))
      | render => exact .inr (.inr (.inr ⟨rfl, rfl, rfl⟩))
  | stoppedClean => exact .inl ⟨by simp, rfl⟩
  | stoppedError e => exact .inl ⟨by simp, rfl⟩

/-- A suspended DXYN waits on, completes, or faults (R105, R106, R108). -/
theorem resumeDraw_cases (s : State) :
    (s.display.ask = none ∧ resumeDraw s = .next (s.setWaiting (some .render))) ∨
    (∃ rest, s.display.ask = some (.ok, rest) ∧ resumeDraw s = .next ((s.setDisplay rest).advance 2)) ∨
    (∃ e rest, s.display.ask = some (.error e, rest) ∧ resumeDraw s = .fault (.displayFailure e s.pc)) :=
  renderAnswer_cases s finishDraw

/-- What a tick leaves after a step that ends the cycle or waits for an answer the host owes, and after one that leaves the core
waiting for an answer at hand (R210; log 12). -/
theorem tick_cases (s : State) :
    ((recordOutcome s (step s)).answerAtHand = false ∧ tick s = recordOutcome s (step s)) ∨
    ((recordOutcome s (step s)).answerAtHand = true ∧
      tick s = recordOutcome (recordOutcome s (step s)) (step (recordOutcome s (step s)))) := by
  unfold tick tickWith
  cases h : (recordOutcome s (step s)).answerAtHand with
  | false => exact .inl ⟨rfl, if_neg (by simp [h])⟩
  | true => exact .inr ⟨rfl, if_pos h⟩

end Sys2Proof.Machine
end

