-- ==== Sys2Proof/Laws/Frames.lean ====
section
/-! SUPPORT. Frames: how they compose, and the frame of each update and of the operations that end an instruction. -/

namespace Sys2Proof.Machine

variable {s t u : State}

theorem Part.same_refl (p : Part) (s : State) : p.same s s := by cases p <;> simp [Part.same]

theorem Part.same_trans {p : Part} (h : p.same s t) (h' : p.same t u) : p.same s u := by
  cases p <;> simp_all [Part.same]

theorem sameBut_refl (ps : List Part) (s : State) : SameBut ps s s := fun p _ => p.same_refl s

theorem sameBut_mono {ps qs : List Part} (h : SameBut ps s t) (hs : ∀ p ∈ ps, p ∈ qs) : SameBut qs s t :=
  fun p hp => h p fun hp' => hp (hs p hp')

theorem sameBut_trans {ps : List Part} (h : SameBut ps s t) (h' : SameBut ps t u) : SameBut ps s u :=
  fun p hp => Part.same_trans (h p hp) (h' p hp)

/-- Two frames, one after the other. -/
theorem sameBut_append {ps qs : List Part} (h : SameBut ps s t) (h' : SameBut qs t u) : SameBut (ps ++ qs) s u :=
  sameBut_trans (sameBut_mono h fun _ hp => List.mem_append_left _ hp)
    (sameBut_mono h' fun _ hp => List.mem_append_right _ hp)

/-! ### The frame of each update -/

section Updates
variable (s : State)

theorem setReg_frame (x : Reg) (b : Byte) : SameBut [.v, .written] s (s.setReg x b) := by
  intro p hp; cases p <;> first | rfl | exact fun _ => rfl | exact fun _ _ => rfl | simp at hp

theorem setI_frame (w : Word) : SameBut [.i, .written] s (s.setI w) := by
  intro p hp; cases p <;> first | rfl | exact fun _ => rfl | exact fun _ _ => rfl | simp at hp

theorem setDt_frame (b : Byte) : SameBut [.dt, .written] s (s.setDt b) := by
  intro p hp; cases p <;> first | rfl | exact fun _ => rfl | exact fun _ _ => rfl | simp at hp

theorem setSt_frame (b : Byte) : SameBut [.st, .written] s (s.setSt b) := by
  intro p hp; cases p <;> first | rfl | exact fun _ => rfl | exact fun _ _ => rfl | simp at hp

theorem setPc_frame (w : Word) : SameBut [.pc] s (s.setPc w) := by
  intro p hp; cases p <;> first | rfl | exact fun _ => rfl | exact fun _ _ => rfl | simp at hp

theorem advance_frame (w : Word) : SameBut [.pc] s (s.advance w) := setPc_frame s _

theorem skipIf_frame (c : Bool) : SameBut [.pc] s (s.skipIf c) := setPc_frame s _

theorem setSp_frame (b : Byte) : SameBut [.sp] s (s.setSp b) := by
  intro p hp; cases p <;> first | rfl | exact fun _ => rfl | exact fun _ _ => rfl | simp at hp

theorem setStackEntry_frame (j : Nat) (w : Word) : SameBut [.stack] s (s.setStackEntry j w) := by
  intro p hp; cases p <;> first | rfl | exact fun _ => rfl | exact fun _ _ => rfl | simp at hp

theorem setMem_frame (m : Memory) : SameBut [.mem] s (s.setMem m) := by
  intro p hp; cases p <;> first | rfl | exact fun _ => rfl | exact fun _ _ => rfl | simp at hp

theorem setPix_frame (q : Pixels) : SameBut [.pix] s (s.setPix q) := by
  intro p hp; cases p <;> first | rfl | exact fun _ => rfl | exact fun _ _ => rfl | simp at hp

theorem setRun_frame (r : RunState) : SameBut [.run] s (s.setRun r) := by
  intro p hp; cases p <;> first | rfl | exact fun _ => rfl | exact fun _ _ => rfl | simp at hp

theorem setWaiting_frame (b : Option Request) : SameBut [.waiting] s (s.setWaiting b) := by
  intro p hp; cases p <;> first | rfl | exact fun _ => rfl | exact fun _ _ => rfl | simp at hp

theorem setKeypad_frame (q : Port KeyAnswer) : SameBut [.keypad] s (s.setKeypad q) := by
  intro p hp; cases p <;> first | rfl | exact fun _ => rfl | exact fun _ _ => rfl | simp at hp

theorem setDisplay_frame (q : Port DisplayAnswer) : SameBut [.display] s (s.setDisplay q) := by
  intro p hp; cases p <;> first | rfl | exact fun _ => rfl | exact fun _ _ => rfl | simp at hp

theorem setRandom_frame (q : Port Byte) : SameBut [.random] s (s.setRandom q) := by
  intro p hp; cases p <;> first | rfl | exact fun _ => rfl | exact fun _ _ => rfl | simp at hp

theorem countDraw_frame : SameBut [.draws] s s.countDraw := by
  intro p hp; cases p <;> first | rfl | exact fun _ => rfl | exact fun _ _ => rfl | simp at hp

theorem emit_frame (e : Event) : SameBut [.trace] s (s.emit e) := by
  intro p hp; cases p <;> first | rfl | exact fun _ => rfl | exact fun _ _ => rfl | simp at hp

theorem requestStop_frame : SameBut [.stopReq] s s.requestStop := by
  intro p hp; cases p <;> first | rfl | exact fun _ => rfl | exact fun _ _ => rfl | simp at hp

end Updates

/-! ### The frame of the shared operations -/

theorem setRegs_frame (s : State) (rbs : List (Reg × Byte)) : SameBut [.v, .written] s (s.setRegs rbs) := by
  induction rbs generalizing s with
  | nil => exact sameBut_refl _ s
  | cons p rest ih => exact sameBut_trans (setReg_frame s p.1 p.2) (ih _)

theorem writeResultAndFlag_frame (s : State) (x : Reg) (result : Byte) (flag : Bool) :
    SameBut [.v, .written, .draws] s (writeResultAndFlag s x result flag) := by
  have one (s : State) (x : Reg) (b : Byte) : SameBut [.v, .written, .draws] s (s.setReg x b) :=
    sameBut_mono (setReg_frame s x b) (by decide)
  rcases writeResultAndFlag_cases s x result flag with ⟨-, e⟩ | ⟨-, -, e⟩ | ⟨-, -, e⟩ | ⟨-, -, e⟩ <;> rw [e]
  · exact sameBut_trans (one _ _ _) (one _ _ _)
  · exact one _ _ _
  · exact one _ _ _
  · exact sameBut_append (setReg_frame s vf _) (countDraw_frame _)

theorem timerDecrement_frame (s : State) : SameBut [.dt, .st, .trace] s (timerDecrement s) := by
  have delay (s : State) : SameBut [.dt, .st, .trace] s (delayTick s) := by
    unfold delayTick; split
    · intro p hp; cases p <;> first | rfl | exact fun _ => rfl | exact fun _ _ => rfl | simp at hp
    · exact sameBut_refl _ s
  have sound (s : State) : SameBut [.dt, .st, .trace] s (soundTick s) := by
    unfold soundTick; split
    · split <;> (intro p hp; cases p <;> first | rfl | exact fun _ => rfl | exact fun _ _ => rfl | simp at hp)
    · exact sameBut_refl _ s
  exact sameBut_trans (delay s) (sound _)

end Sys2Proof.Machine
end

