-- ==== Sys2Proof/Laws/PerInstr.lean ====
section
/-! SUPPORT. A law for every instruction, one lemma per constructor. The family EncodePattern: the word an instruction encodes to
has the fixed bits of its row of spec/opcode_table.json, whatever its operands are. -/

namespace Sys2Proof.Laws.EncodePattern

/-- The mask and the pattern of the instruction's row of the opcode table. -/
def row : Instr → Word × Word
  | .cls => (0xFFFF, 0x00E0)
  | .ret => (0xFFFF, 0x00EE)
  | .jp _ => (0xF000, 0x1000)
  | .call _ => (0xF000, 0x2000)
  | .seImm _ _ => (0xF000, 0x3000)
  | .sneImm _ _ => (0xF000, 0x4000)
  | .seReg _ _ => (0xF00F, 0x5000)
  | .ldImm _ _ => (0xF000, 0x6000)
  | .addImm _ _ => (0xF000, 0x7000)
  | .ldReg _ _ => (0xF00F, 0x8000)
  | .orReg _ _ => (0xF00F, 0x8001)
  | .andReg _ _ => (0xF00F, 0x8002)
  | .xorReg _ _ => (0xF00F, 0x8003)
  | .addReg _ _ => (0xF00F, 0x8004)
  | .sub _ _ => (0xF00F, 0x8005)
  | .shr _ _ => (0xF00F, 0x8006)
  | .subn _ _ => (0xF00F, 0x8007)
  | .shl _ _ => (0xF00F, 0x800E)
  | .sneReg _ _ => (0xF00F, 0x9000)
  | .ldI _ => (0xF000, 0xA000)
  | .jpV0 _ => (0xF000, 0xB000)
  | .rnd _ _ => (0xF000, 0xC000)
  | .drw _ _ _ => (0xF000, 0xD000)
  | .skp _ => (0xF0FF, 0xE09E)
  | .sknp _ => (0xF0FF, 0xE0A1)
  | .ldXDt _ => (0xF0FF, 0xF007)
  | .ldXK _ => (0xF0FF, 0xF00A)
  | .ldDtX _ => (0xF0FF, 0xF015)
  | .ldStX _ => (0xF0FF, 0xF018)
  | .addIX _ => (0xF0FF, 0xF01E)
  | .ldFX _ => (0xF0FF, 0xF029)
  | .ldBX _ => (0xF0FF, 0xF033)
  | .ldMemX _ => (0xF0FF, 0xF055)
  | .ldXMem _ => (0xF0FF, 0xF065)

/-- The encoded word has the fixed bits of the instruction's row. -/
def Statement (i : Instr) : Prop := encode i &&& (row i).1 = (row i).2

/-! The fixed bits, format by format (R74). -/

theorem and_fifteen : ∀ a : BitVec 4, a &&& 15#4 = a := by decide

theorem and_byte : ∀ a : BitVec 8, a &&& 255#8 = a := by decide

theorem addr_pattern (op : BitVec 4) (nnn : BitVec 12) : encodeAddr op nnn &&& 0xF000 = encodeAddr op 0 := by
  have : (0xF000 : Word) = 0xF#4 ++ 0x000#12 := by decide
  rw [this, encodeAddr, BitVec.and_append]
  simp [encodeAddr, and_fifteen]

theorem imm_pattern (op : BitVec 4) (x : Reg) (nn : Byte) : encodeImm op x nn &&& 0xF000 = encodeAddr op 0 := addr_pattern op _

theorem ext_pattern (op : BitVec 4) (x : Reg) (nn : Byte) : encodeImm op x nn &&& 0xF0FF = encodeImm op 0 nn := by
  have : (0xF0FF : Word) = 0xF#4 ++ (0x0#4 ++ 0xFF#8 : BitVec 12) := by decide
  rw [this, encodeImm, BitVec.and_append, BitVec.and_append]
  simp [encodeImm, and_fifteen, and_byte]

theorem reg_pattern (op n : BitVec 4) (x y : Reg) : encodeReg op x y n &&& 0xF00F = encodeReg op 0 0 n := by
  have : (0xF00F : Word) = 0xF#4 ++ (0x0#4 ++ (0x0#4 ++ 0xF#4 : BitVec 8) : BitVec 12) := by decide
  rw [this, encodeReg, encodeImm, BitVec.and_append, BitVec.and_append, BitVec.and_append]
  simp [encodeReg, encodeImm, and_fifteen]

theorem cls : Statement .cls := rfl
theorem ret : Statement .ret := rfl
theorem jp (nnn : BitVec 12) : Statement (.jp nnn) := addr_pattern 0x1 nnn
theorem call (nnn : BitVec 12) : Statement (.call nnn) := addr_pattern 0x2 nnn
theorem seImm (x : Reg) (nn : Byte) : Statement (.seImm x nn) := imm_pattern 0x3 x nn
theorem sneImm (x : Reg) (nn : Byte) : Statement (.sneImm x nn) := imm_pattern 0x4 x nn
theorem seReg (x y : Reg) : Statement (.seReg x y) := reg_pattern 0x5 0x0 x y
theorem ldImm (x : Reg) (nn : Byte) : Statement (.ldImm x nn) := imm_pattern 0x6 x nn
theorem addImm (x : Reg) (nn : Byte) : Statement (.addImm x nn) := imm_pattern 0x7 x nn
theorem ldReg (x y : Reg) : Statement (.ldReg x y) := reg_pattern 0x8 0x0 x y
theorem orReg (x y : Reg) : Statement (.orReg x y) := reg_pattern 0x8 0x1 x y
theorem andReg (x y : Reg) : Statement (.andReg x y) := reg_pattern 0x8 0x2 x y
theorem xorReg (x y : Reg) : Statement (.xorReg x y) := reg_pattern 0x8 0x3 x y
theorem addReg (x y : Reg) : Statement (.addReg x y) := reg_pattern 0x8 0x4 x y
theorem sub (x y : Reg) : Statement (.sub x y) := reg_pattern 0x8 0x5 x y
theorem shr (x y : Reg) : Statement (.shr x y) := reg_pattern 0x8 0x6 x y
theorem subn (x y : Reg) : Statement (.subn x y) := reg_pattern 0x8 0x7 x y
theorem shl (x y : Reg) : Statement (.shl x y) := reg_pattern 0x8 0xE x y
theorem sneReg (x y : Reg) : Statement (.sneReg x y) := reg_pattern 0x9 0x0 x y
theorem ldI (nnn : BitVec 12) : Statement (.ldI nnn) := addr_pattern 0xA nnn
theorem jpV0 (nnn : BitVec 12) : Statement (.jpV0 nnn) := addr_pattern 0xB nnn
theorem rnd (x : Reg) (nn : Byte) : Statement (.rnd x nn) := imm_pattern 0xC x nn
theorem drw (x y : Reg) (n : Nat) : Statement (.drw x y n) := imm_pattern 0xD x _
theorem skp (x : Reg) : Statement (.skp x) := ext_pattern 0xE x 0x9E
theorem sknp (x : Reg) : Statement (.sknp x) := ext_pattern 0xE x 0xA1
theorem ldXDt (x : Reg) : Statement (.ldXDt x) := ext_pattern 0xF x 0x07
theorem ldXK (x : Reg) : Statement (.ldXK x) := ext_pattern 0xF x 0x0A
theorem ldDtX (x : Reg) : Statement (.ldDtX x) := ext_pattern 0xF x 0x15
theorem ldStX (x : Reg) : Statement (.ldStX x) := ext_pattern 0xF x 0x18
theorem addIX (x : Reg) : Statement (.addIX x) := ext_pattern 0xF x 0x1E
theorem ldFX (x : Reg) : Statement (.ldFX x) := ext_pattern 0xF x 0x29
theorem ldBX (x : Reg) : Statement (.ldBX x) := ext_pattern 0xF x 0x33
theorem ldMemX (x : Reg) : Statement (.ldMemX x) := ext_pattern 0xF x 0x55
theorem ldXMem (x : Reg) : Statement (.ldXMem x) := ext_pattern 0xF x 0x65

end Sys2Proof.Laws.EncodePattern
end

