-- ==== Sys2Proof/Laws/Pixels.lean ====
section
/-! SUPPORT. Laws of the graphics buffer: a pixel after a write, the cleared buffer, and the XOR primitive (R100, R101). -/

namespace Sys2Proof.Machine

/-- A pixel on the grid after a pixel was written. -/
theorem at_put {p : Pixels} {x y px py : Nat} {b : Bool} (hx : x < 64) (hy : y < 32) :
    Pixels.at (Pixels.put p x y b) px py = if px = x ∧ py = y then b else Pixels.at p px py := by
  simp only [Pixels.at, Pixels.put, hy, dite_true, Vector.getElem?_set]
  by_cases h : y = py
  · subst h
    by_cases h' : x = px
    · subst h'; simp [hx]
    · simp [h', Ne.symm h', hy]
  · simp [h, Ne.symm h]

/-- Every pixel of the cleared buffer is 0 (R100). -/
theorem at_blank {px py : Nat} : Pixels.at Pixels.blank px py = false := by
  simp only [Pixels.at, Pixels.blank, Vector.getElem?_replicate]
  split
  · simp only [Option.bind_some, Vector.getElem?_replicate]; split <;> rfl
  · rfl

/-- The XOR primitive changes one pixel (R101). -/
theorem at_setPixel {d : Pixels × Bool} {x y px py : Nat} {b : Bool} (hx : x < 64) (hy : y < 32) :
    Pixels.at (setPixel d x y b).1 px py =
      if px = x ∧ py = y then (Pixels.at d.1 px py ^^ b) else Pixels.at d.1 px py := by
  simp only [setPixel, at_put hx hy]
  split
  · next h => rw [h.1, h.2]
  · rfl

/-- And reports a collision exactly when it turns a set pixel off (R101). -/
theorem setPixel_collided {d : Pixels × Bool} {x y : Nat} {b : Bool} :
    (setPixel d x y b).2 = true ↔ d.2 = true ∨ (Pixels.at d.1 x y = true ∧ b = true) := by
  simp [setPixel, collides]

/-- A start below the dimension and an offset of at most the dimension land on the grid (R102). -/
theorem wrapOnce_lt {c size : Nat} (h : c < 2 * size) : wrapOnce c size < size := by
  unfold wrapOnce; split <;> omega

/-- The single subtraction is reduction modulo the dimension there (R102, C3 of 90_conflicts.md). -/
theorem wrapOnce_eq_mod {c size : Nat} (h : c < 2 * size) : wrapOnce c size = c % size := by
  unfold wrapOnce
  split
  · next hc => rw [Nat.mod_eq_sub_mod hc, Nat.mod_eq_of_lt (by omega)]
  · exact (Nat.mod_eq_of_lt (by omega)).symm

end Sys2Proof.Machine
end

