-- ==== Sys2Proof/Tests/Slice0.lean ====
section
/-! SUPPORT. Tests: the well-formedness check, every constructor's decoding from a word written out from its pattern (R74, R75),
single steps with the expected results of spec/95_test_vectors.md, and for each statement with hypotheses a state that meets
them. -/

open Sys2Proof Sys2Proof.Machine

namespace Sys2Proof.Tests

/-! ### Well-formedness (R72, R73) -/

theorem test_wf_refuses_sixteen_rows : ¬ WellFormed (.drw 0 0 16) := by decide
theorem test_wf_takes_fifteen_rows : WellFormed (.drw 15 15 15) := by decide

/-! ### Decoding: one word for each constructor, from the patterns of R74 and R75 -/

theorem test_decode_cls : decodeWord 0x00E0 = .instr .cls := by decide
theorem test_decode_ret : decodeWord 0x00EE = .instr .ret := by decide
theorem test_decode_jp : decodeWord 0x1345 = .instr (.jp 0x345) := by decide
theorem test_decode_call : decodeWord 0x2FFE = .instr (.call 0xFFE) := by decide
theorem test_decode_seImm : decodeWord 0x3A42 = .instr (.seImm 10 0x42) := by decide
theorem test_decode_sneImm : decodeWord 0x4B42 = .instr (.sneImm 11 0x42) := by decide
theorem test_decode_seReg : decodeWord 0x5120 = .instr (.seReg 1 2) := by decide
theorem test_decode_ldImm : decodeWord 0x65AB = .instr (.ldImm 5 0xAB) := by decide
theorem test_decode_addImm : decodeWord 0x7501 = .instr (.addImm 5 0x01) := by decide
theorem test_decode_ldReg : decodeWord 0x8120 = .instr (.ldReg 1 2) := by decide
theorem test_decode_orReg : decodeWord 0x8341 = .instr (.orReg 3 4) := by decide
theorem test_decode_andReg : decodeWord 0x8562 = .instr (.andReg 5 6) := by decide
theorem test_decode_xorReg : decodeWord 0x8783 = .instr (.xorReg 7 8) := by decide
theorem test_decode_addReg : decodeWord 0x89A4 = .instr (.addReg 9 10) := by decide
theorem test_decode_sub : decodeWord 0x8BC5 = .instr (.sub 11 12) := by decide
theorem test_decode_shr : decodeWord 0x8DE6 = .instr (.shr 13 14) := by decide
theorem test_decode_subn : decodeWord 0x8F07 = .instr (.subn 15 0) := by decide
theorem test_decode_shl : decodeWord 0x812E = .instr (.shl 1 2) := by decide
theorem test_decode_sneReg : decodeWord 0x9120 = .instr (.sneReg 1 2) := by decide
theorem test_decode_ldI : decodeWord 0xAABC = .instr (.ldI 0xABC) := by decide
theorem test_decode_jpV0 : decodeWord 0xB300 = .instr (.jpV0 0x300) := by decide
theorem test_decode_rnd : decodeWord 0xC0FE = .instr (.rnd 0 0xFE) := by decide
theorem test_decode_drw : decodeWord 0xD125 = .instr (.drw 1 2 5) := by decide
theorem test_decode_skp : decodeWord 0xE19E = .instr (.skp 1) := by decide
theorem test_decode_sknp : decodeWord 0xE2A1 = .instr (.sknp 2) := by decide
theorem test_decode_ldXDt : decodeWord 0xF107 = .instr (.ldXDt 1) := by decide
theorem test_decode_ldXK : decodeWord 0xF40A = .instr (.ldXK 4) := by decide
theorem test_decode_ldDtX : decodeWord 0xF015 = .instr (.ldDtX 0) := by decide
theorem test_decode_ldStX : decodeWord 0xF718 = .instr (.ldStX 7) := by decide
theorem test_decode_addIX : decodeWord 0xF31E = .instr (.addIX 3) := by decide
theorem test_decode_ldFX : decodeWord 0xF129 = .instr (.ldFX 1) := by decide
theorem test_decode_ldBX : decodeWord 0xFA33 = .instr (.ldBX 10) := by decide
theorem test_decode_ldMemX : decodeWord 0xF355 = .instr (.ldMemX 3) := by decide
theorem test_decode_ldXMem : decodeWord 0xF265 = .instr (.ldXMem 2) := by decide

/-- E6, E9, E11 and E12 of 95_test_vectors.md. -/
theorem test_decode_unknown : decodeWord 0x0123 = .rejected (.unknownOpcode 0x0123) ∧
    decodeWord 0x812F = .rejected (.unknownOpcode 0x812F) ∧ decodeWord 0xE19F = .rejected (.unknownOpcode 0xE19F) ∧
    decodeWord 0xF100 = .rejected (.unknownOpcode 0xF100) := by decide

theorem test_decode_truncated : decodeBytes [0x00] = .rejected (.truncated [0x00]) := by decide

/-! ### Helpers -/

/-- The machine after reset with some registers set. -/
def atReset (regs : List (Reg × Byte)) : State := State.reset.setRegs regs

/-- What the next state of an outcome satisfies. -/
def after (o : Result) (p : State → Bool) : Bool :=
  match o with
  | .next t => p t
  | .fault _ | .refused _ => false

/-- The outcome is this fault. -/
def faultsWith (o : Result) (f : Fault) : Bool :=
  match o with
  | .fault g => decide (g = f)
  | .next _ | .refused _ => false

/-- One step of an instruction word. -/
def runWord (s : State) (w : Nat) : Result := step (s.withFetchWord 16 w)

/-- A host that gives one key answer. -/
def withKey (s : State) (a : KeyAnswer) : State := s.setKeypad { queue := [a], after := none }

/-- A host that gives one render answer. -/
def withRender (s : State) (a : DisplayAnswer) : State := s.setDisplay { queue := [a], after := none }

/-- Parameters other than the spec's. -/
def withParams (s : State) (p : Params) : State := { s with cfg := p }

/-! ### Single steps (95_test_vectors.md, the vector's number in each comment) -/

/-- E1 -/
theorem test_fetch_odd_address : after (runWord (State.reset.setPc 0x201) 0x602A) (fun t => t.reg 0 == 0x2A && t.pc == 0x203) := by decide
/-- E3 -/
theorem test_fetch_past_end : faultsWith (step (State.reset.setPc 0xFFF)) (.memoryOutOfRange 0x1000 0xFFF) := by decide
/-- E4 -/
theorem test_fetch_empty_memory : faultsWith (step State.reset) (.unknownOpcode 0x0000 0x200) := by decide
/-- E13 -/
theorem test_unknown_word : faultsWith (runWord (State.reset.setDt 5) 0xFFFF) (.unknownOpcode 0xFFFF 0x200) := by decide
/-- T5 -/
theorem test_stop_request : after (step (State.reset.setDt 5).requestStop) (fun t => decide (t.run = .stoppedClean) && t.dt == 5 && t.pc == 0x200) := by decide
/-- T1 -/
theorem test_timers_fall : after (runWord ((State.reset.setDt 1).setSt 2) 0x6000) (fun t => t.dt == 0 && t.st == 1 && t.trace.isEmpty) := by decide
/-- T2 -/
theorem test_cue : after (runWord (State.reset.setSt 1) 0x6000) (fun t => t.st == 0 && decide (t.trace = [.cue])) := by decide

/-- G1 -/
theorem test_cls : after (runWord ((atReset [(15, 7)]).setPix (Pixels.put Pixels.blank 5 5 true)) 0x00E0)
    (fun t => decide (t.pix = Pixels.blank) && t.trace.isEmpty && t.reg 15 == 7 && t.pc == 0x202) := by decide
/-- C3 -/
theorem test_ret : after (runWord ((State.reset.setSp 1).setStackEntry 1 0x200) 0x00EE) (fun t => t.pc == 0x202 && t.sp == 0) := by decide
/-- C5 -/
theorem test_ret_underflow : faultsWith (runWord State.reset 0x00EE) (.stackUnderflow 0x200) := by decide
/-- C1 -/
theorem test_jp : after (runWord State.reset 0x1345) (fun t => t.pc == 0x345) := by decide
/-- C2 -/
theorem test_call : after (runWord State.reset 0x2400) (fun t => t.sp == 1 && t.stackEntry 1 == 0x200 && t.pc == 0x400) := by decide
/-- C4 -/
theorem test_call_overflow : faultsWith (runWord (State.reset.setSp 15) 0x2400) (.stackOverflow 0x200) := by decide
/-- C7 -/
theorem test_seImm_skips : after (runWord (atReset [(3, 0x42)]) 0x3342) (fun t => t.pc == 0x204) := by decide
/-- C8 -/
theorem test_seImm_goes_on : after (runWord (atReset [(3, 0x41)]) 0x3342) (fun t => t.pc == 0x202) := by decide
/-- C9 -/
theorem test_sneImm_skips : after (runWord (atReset [(3, 0x41)]) 0x4342) (fun t => t.pc == 0x204) := by decide
/-- C10 -/
theorem test_sneImm_goes_on : after (runWord (atReset [(3, 0x42)]) 0x4342) (fun t => t.pc == 0x202) := by decide
/-- C11 -/
theorem test_seReg : after (runWord (atReset [(1, 9), (2, 9)]) 0x5120) (fun t => t.pc == 0x204) := by decide
/-- C13 -/
theorem test_sneReg : after (runWord (atReset [(1, 9), (2, 8)]) 0x9120) (fun t => t.pc == 0x204) := by decide
/-- C14 -/
theorem test_sneReg_same : after (runWord (atReset [(4, 9)]) 0x9440) (fun t => t.pc == 0x202) := by decide
/-- C15 -/
theorem test_jpV0 : after (runWord (atReset [(0, 0x10)]) 0xB300) (fun t => t.pc == 0x310) := by decide
/-- C16 -/
theorem test_jpV0_above : after (runWord (atReset [(0, 0xFF)]) 0xBFFF) (fun t => t.pc == 0x10FE) := by decide

/-- A1 -/
theorem test_ldImm : after (runWord (atReset [(15, 7)]) 0x65AB) (fun t => t.reg 5 == 0xAB && t.reg 15 == 7) := by decide
/-- A2 -/
theorem test_addImm : after (runWord (atReset [(5, 0xFF), (15, 7)]) 0x7501) (fun t => t.reg 5 == 0x00 && t.reg 15 == 7) := by decide
/-- A4 -/
theorem test_ldReg : after (runWord (atReset [(1, 0x2A)]) 0x8010) (fun t => t.reg 0 == 0x2A && t.reg 1 == 0x2A) := by decide
/-- A5 -/
theorem test_orReg : after (runWord (atReset [(0, 0x0F), (1, 0xF0), (15, 1)]) 0x8011) (fun t => t.reg 0 == 0xFF && t.reg 15 == 1) := by decide
/-- A6 -/
theorem test_andReg : after (runWord (atReset [(0, 0x3C), (1, 0x0F)]) 0x8012) (fun t => t.reg 0 == 0x0C) := by decide
/-- A7 -/
theorem test_xorReg : after (runWord (atReset [(0, 0x5A)]) 0x8003) (fun t => t.reg 0 == 0x00) := by decide
/-- A8 -/
theorem test_addReg : after (runWord (atReset [(0, 200), (1, 100)]) 0x8014) (fun t => t.reg 0 == 0x2C && t.reg 15 == 1) := by decide
/-- A12 -/
theorem test_addReg_vf_operand : after (runWord (atReset [(0, 1), (15, 0xFF)]) 0x80F4) (fun t => t.reg 0 == 0 && t.reg 15 == 1) := by decide
/-- A15 -/
theorem test_sub_equal : after (runWord (atReset [(0, 5), (1, 5)]) 0x8015) (fun t => t.reg 0 == 0 && t.reg 15 == 0) := by decide
/-- A16 -/
theorem test_sub_borrow : after (runWord (atReset [(0, 0), (1, 1)]) 0x8015) (fun t => t.reg 0 == 0xFF && t.reg 15 == 0) := by decide
/-- A19 -/
theorem test_shr : after (runWord (atReset [(0, 0x81), (1, 0x55)]) 0x8016) (fun t => t.reg 0 == 0x40 && t.reg 15 == 1 && t.reg 1 == 0x55) := by decide
/-- A22 -/
theorem test_shr_vf : after (runWord (atReset [(15, 0x03)]) 0x8F06) (fun t => t.reg 15 == 1) := by decide
/-- A23 -/
theorem test_subn : after (runWord (atReset [(0, 3), (1, 0x0A)]) 0x8017) (fun t => t.reg 0 == 7 && t.reg 15 == 1) := by decide
/-- A24 -/
theorem test_subn_borrow : after (runWord (atReset [(0, 2), (1, 1)]) 0x8017) (fun t => t.reg 0 == 0xFF && t.reg 15 == 0) := by decide
/-- A28 -/
theorem test_shl : after (runWord (atReset [(0, 0xFF), (1, 0x01)]) 0x801E) (fun t => t.reg 0 == 0xFE && t.reg 15 == 1) := by decide
/-- A29 under VF_ORDER = ResultWins -/
theorem test_shl_result_wins : after (runWord (withParams (atReset [(15, 0x80)]) { specParams with vfOrder := .resultWins }) 0x8F0E)
    (fun t => t.reg 15 == 0x00) := by decide
/-- A30 -/
theorem test_rnd_add : after (runWord (State.reset.supplyRandom 0x37) 0xC20F) (fun t => t.reg 2 == 0x46) := by decide
/-- A30 under RAND_COMBINE = And -/
theorem test_rnd_and : after (runWord (withParams (State.reset.supplyRandom 0x37) { specParams with randCombine := .and }) 0xC20F)
    (fun t => t.reg 2 == 0x07) := by decide

/-- M1 -/
theorem test_ldI : after (runWord State.reset 0xAABC) (fun t => t.i == 0x0ABC) := by decide
/-- M3 -/
theorem test_addIX : after (runWord ((atReset [(0, 1)]).setI 0x0FFF) 0xF01E) (fun t => t.i == 0x1000 && t.reg 15 == 0) := by decide
/-- M4 -/
theorem test_addIX_wraps : after (runWord ((atReset [(0, 1)]).setI 0xFFFF) 0xF01E) (fun t => t.i == 0x0000) := by decide
/-- M7 -/
theorem test_ldFX : after (runWord (atReset [(1, 0xFF)]) 0xF129) (fun t => t.i == 0x04FB) := by decide
/-- M8 -/
theorem test_ldBX : after (runWord ((atReset [(0, 254)]).setI 0x300) 0xF033)
    (fun t => t.byteAt 0x300 == 2 && t.byteAt 0x301 == 5 && t.byteAt 0x302 == 4 && t.i == 0x300) := by decide
/-- M12 -/
theorem test_ldBX_out_of_range : faultsWith (runWord (State.reset.setI 0xFFE) 0xF033) (.memoryOutOfRange 0x1000 0x200) := by decide
/-- M14 -/
theorem test_ldMemX : after (runWord ((atReset [(0, 2), (1, 5), (2, 4), (3, 7)]).setI 0x307) 0xF355)
    (fun t => t.byteAt 0x307 == 2 && t.byteAt 0x308 == 5 && t.byteAt 0x309 == 4 && t.byteAt 0x30A == 7 && t.byteAt 0x30B == 0 && t.i == 0x307) := by
  decide
/-- M17 -/
theorem test_ldMemX_out_of_range : faultsWith (runWord (State.reset.setI 0xFF1) 0xFF55) (.memoryOutOfRange 0x1000 0x200) := by decide
/-- M19, the first and the last register -/
theorem test_ldXMem_font : after (runWord State.reset 0xFF65) (fun t => t.reg 0 == 0xF0 && t.reg 5 == 0x20 && t.reg 15 == 0xF0) := by decide
/-- M20 -/
theorem test_ldXMem_out_of_range : faultsWith (runWord (State.reset.setI 0x1000) 0xF065) (.memoryOutOfRange 0x1000 0x200) := by decide

/-- K1 -/
theorem test_skp : after (runWord (withKey (atReset [(1, 5)]) (.key 5)) 0xE19E) (fun t => t.pc == 0x204) := by decide
/-- K6 -/
theorem test_sknp : after (runWord (withKey (atReset [(1, 5)]) (.key 3)) 0xE1A1) (fun t => t.pc == 0x204) := by decide
/-- K10 -/
theorem test_ldXK : after (runWord (withKey State.reset (.key 11)) 0xF40A) (fun t => t.reg 4 == 0x0B && t.pc == 0x202) := by decide
/-- K11 -/
theorem test_ldXK_retry : after (runWord (withKey (State.reset.setDt 3) .noKey) 0xF40A) (fun t => t.pc == 0x200 && t.dt == 2 && t.reg 4 == 0) := by decide
/-- K8 -/
theorem test_skp_quit : after (runWord (withKey (State.reset.setDt 3) .quit) 0xE19E)
    (fun t => decide (t.run = .stoppedClean) && t.pc == 0x200 && t.dt == 3) := by decide
/-- K9 -/
theorem test_sknp_key_error : faultsWith (runWord (withKey State.reset (.error 9)) 0xE1A1) (.keypadFailure (.host 9) 0x200) := by decide
/-- K14 -/
theorem test_ldXDt : after (runWord (State.reset.setDt 2) 0xF107) (fun t => t.reg 1 == 2 && t.dt == 1) := by decide
/-- K15 -/
theorem test_ldDtX : after (runWord (atReset [(0, 3)]) 0xF015) (fun t => t.dt == 2) := by decide
/-- K17 -/
theorem test_ldStX : after (runWord (atReset [(0, 1)]) 0xF018) (fun t => t.st == 0 && decide (t.trace = [.cue])) := by decide
/-- K18 -/
theorem test_ldStX_silences : after (runWord (State.reset.setSt 5) 0xF018) (fun t => t.st == 0 && t.trace.isEmpty) := by decide

/-- G10, with VF as the column register: it is read before VF is written (R108) -/
theorem test_drw_collision : after (runWord (((atReset [(15, 5), (1, 5)]).setI 0x041).setPix (Pixels.put Pixels.blank 6 5 true)) 0xDF11)
    (fun t => Pixels.at t.pix 5 5 && !Pixels.at t.pix 6 5 && t.reg 15 == 1 && t.trace.length == 1) := by decide

/-- G12: an `Error` answer ends the run with DisplayFailure, the request recorded, the timers as they were. -/
theorem test_render_error : let t := tick (withRender ((atReset [(0, 5)]).withFetchWord 16 0xD001) (.error 4) |>.setDt 3)
    t.run = .stoppedError (.displayFailure 4 0x200) ∧ t.trace.length = 1 ∧ t.dt = 3 := by decide

/-! ### Witnesses: for each statement with hypotheses, states and operands that meet them, clause by clause -/

/-- A machine under UNINIT_POLICY = Fault, with nothing written. -/
def strict : State := State.create { specParams with uninit := .fault }

/-- The machine after reset about to run a word. -/
def about (w : Nat) : State := State.reset.withFetchWord 16 w

/-- A host that has not answered. -/
def unanswered (s : State) : State := s.setKeypad { queue := [], after := none }

theorem witness_DecodeInvertsEncode : WellFormed (.drw 15 15 15) ∧ WellFormed (.jp 0xFFF) := by decide
theorem witness_EncodeInvertsDecode : decodeWord 0xDFFF = .instr (.drw 15 15 15) := by decide
theorem witness_DecodeFollowsOpcodeTable_row : (opcodeTable[33]?).any (fun r => decide (0xFF65 &&& r.mask = r.pattern)) = true := by decide
theorem witness_DecodeFollowsOpcodeTable_none : ∀ r ∈ opcodeTable, ¬ r.Matches 0x00E1 := by simp [opcodeTable, OpcodeRow.Matches]
theorem witness_CreationValues_edges : 0x050 ≤ 0x050 ∧ 0xFFF ≤ 0xFFF ∧ (State.create specParams).cfg.uninit = .zero := by decide
theorem witness_LoadWritesImage_fits : (List.replicate 3584 (0 : Byte)).length ≤ 4096 - State.reset.cfg.loadOffset.toNat := by
  rw [List.length_replicate]; decide
theorem witness_LoadWritesImage_overflows : 4096 - State.reset.cfg.loadOffset.toNat < (List.replicate 3585 (0 : Byte)).length := by
  rw [List.length_replicate]; decide
theorem witness_LoadWritesImage_font : ({ specParams with loadOffset := 0x04F } : Params).loadOffset.toNat < 0x050 := by decide
theorem witness_LaunchMeetsPremises_fits : specParams.wf ∧ ({ specParams with loadOffset := 0x050 } : Params).wf ∧
    ({ specParams with loadOffset := 0xFFF } : Params).wf ∧ [(0x12 : Byte)].length ≤ 4096 - (0xFFF : Word).toNat := by decide
theorem witness_LaunchMeetsPremises_refused : ¬ ({ specParams with loadOffset := 0x04F } : Params).wf ∧
    ¬ ({ specParams with loadOffset := 0x1000 } : Params).wf := by decide
theorem witness_LaunchMeetsPremises_overflows : 4096 - (0xFFF : Word).toNat < [(0x12 : Byte), 0x00].length := by decide
theorem witness_LaunchMeetsInvariant : ∃ s, launch specParams [0x12, 0x00] = .started s := ⟨_, rfl⟩

theorem inv_of_about : (about 0x2400).Inv where
  mem_wf := by decide
  sp_le := by decide
  entry_zero := by decide
  stack_le := by decide
  pc_le := by decide
  waiting_pc := by decide
  cfg_wf := by decide

/-- A call, so that the step changes the parts the invariant speaks of. -/
theorem witness_StepKeepsInvariant : (about 0x2400).Inv ∧ ∃ t, step (about 0x2400) = .next t ∧ t.sp = 1 := ⟨inv_of_about, _, rfl, rfl⟩

theorem witness_StepRunsDecodedInstruction_success : AboutToRun (about 0x6005) (.ldImm 0 5) ∧
    ∃ t, exec (.ldImm 0 5) ((about 0x6005).setWaiting none) = .next t ∧ Active t := ⟨by decide, _, rfl, by decide⟩
theorem witness_StepRunsDecodedInstruction_quit : AboutToRun (withKey (about 0xF00A) .quit) (.ldXK 0) ∧
    ∃ t, exec (.ldXK 0) ((withKey (about 0xF00A) .quit).setWaiting none) = .next t ∧ ¬ Active t := ⟨by decide, _, rfl, by decide⟩
theorem witness_StepRunsDecodedInstruction_fault : AboutToRun (about 0x00EE) .ret ∧
    exec .ret ((about 0x00EE).setWaiting none) = .fault (.stackUnderflow 0x200) := ⟨by decide, rfl⟩
theorem witness_StepRunsDecodedInstruction_refused : AboutToRun ((about 0x00EE).setSp 16) .ret ∧
    exec .ret (((about 0x00EE).setSp 16).setWaiting none) = .refused (.stackPointerOutOfRange 16) := ⟨by decide, rfl⟩
theorem witness_FetchReadsTwoBytesOrFaults_in : (State.reset.setPc 0xFFE).pc.toNat ≤ 0xFFE := by decide
theorem witness_FetchReadsTwoBytesOrFaults_out : let s := State.reset.setPc 0xFFF
    TakesInstruction s ∧ 0xFFF ≤ s.pc.toNat := by decide
theorem witness_FetchReadsTwoBytesOrFaults_waiting : let s := ((State.reset.setPc 0xFFF).setWaiting (some .getKey)).requestStop
    TakesInstruction s ∧ 0xFFF ≤ s.pc.toNat := by decide
theorem witness_UnknownWordFaults : FetchesNext (about 0x5121) ∧ ∀ r ∈ opcodeTable, ¬ r.Matches (wordAtPc (about 0x5121)) := by
  refine ⟨by decide, ?_⟩
  rw [show wordAtPc (about 0x5121) = 0x5121 by decide]
  simp [opcodeTable, OpcodeRow.Matches]
theorem witness_TimersDecrementAfterSuccess_cue : let s := (about 0x6005).setSt 1
    AboutToRun s (.ldImm 0 5) ∧ ∃ t, exec (.ldImm 0 5) (s.setWaiting none) = .next t ∧ Active t ∧ t.readable .dt = true ∧
      t.readable .st = true ∧ t.st = 1 := ⟨by decide, _, rfl, by decide, rfl, rfl, rfl⟩
theorem witness_TimersDecrementAfterSuccess_unwritten : let s := strict.withFetchWord 16 0x6005
    AboutToRun s (.ldImm 0 5) ∧ ∃ t, exec (.ldImm 0 5) (s.setWaiting none) = .next t ∧ Active t ∧ t.readable .dt = false ∧
      t.readable .st = false := ⟨by decide, _, rfl, by decide, rfl, rfl⟩
theorem witness_StoppedCoreRunsNoCycle : (State.reset.setRun .stoppedClean).Ended := by intro h; cases h
theorem witness_FaultEndsRun : step State.reset = .fault (.unknownOpcode 0x0000 0x200) := rfl
theorem witness_StopRequestEndsRunCleanly_top : let s := State.reset.requestStop
    s.run = .running ∧ s.waiting = none ∧ s.stopReq = true := by decide
theorem witness_StopRequestEndsRunCleanly_waiting : (State.reset.setWaiting (some .render)).waiting ≠ none := by decide
theorem witness_StopLatchReadOnlyBetweenCycles : State.reset.requestStop.stopReq = true ∧ ∃ t, step (about 0x6005) = .next t := ⟨rfl, _, rfl⟩
theorem witness_QuitEndsRunCleanly : AboutToRun (withKey (about 0xE19E) .quit) (.skp 1) ∧ isKeyQuery (.skp 1) = true ∧
    (withKey (about 0xE19E) .quit).keypad.ask = some (.quit, { queue := [], after := none }) := by decide
theorem witness_KeyWaitEndsWithTheAnswer : AboutToRun (unanswered (about 0xF00A)) (.ldXK 0) ∧ isKeyQuery (.ldXK 0) = true ∧
    (unanswered (about 0xF00A)).keypad.ask = none ∧ (unanswered (about 0xF00A)).stopReq = false := by decide
theorem witness_OnlyNamedPartsChange : ∃ t, exec (.ldMemX 15) State.reset = .next t := ⟨_, rfl⟩
theorem witness_FaultRecordsByInstruction : exec .ret State.reset = .fault (.stackUnderflow 0x200) ∧
    step State.reset = .fault (.unknownOpcode 0x0000 0x200) := ⟨rfl, rfl⟩
theorem witness_NothingIsRefused : (State.reset.setSp 15).sp.toNat ≤ 15 := by decide
theorem witness_UnwrittenReadFaults_plain : isKeyQuery (.ldMemX 1) = false ∧
    ∃ el ∈ readSet (.ldMemX 1), (strict.setReg 0 0).readable el = false := ⟨rfl, .v 1, by decide, by decide⟩
theorem witness_UnwrittenReadFaults_key : (withKey strict (.key 15)).readable (.v 3) = false ∧
    (withKey strict (.key 15)).keypad.ask = some (.key 15, { queue := [], after := none }) := by decide
theorem witness_UnwrittenReadFaults_zero : State.reset.cfg.uninit = .zero := rfl
theorem witness_WrittenBitsTrackWrites_register : ∃ t, exec (.ldImm 3 5) (strict.setReg 2 0) = .next t ∧ t.reg 3 ≠ (strict.setReg 2 0).reg 3 ∧
    (strict.setReg 2 0).written.has (.v 2) = true := ⟨_, rfl, by decide, by decide⟩
theorem witness_WrittenBitsTrackWrites_special : (∃ t, exec (.ldI 5) strict = .next t ∧ t.i ≠ strict.i) ∧
    (∃ t, exec (.ldDtX 0) (strict.setReg 0 5) = .next t ∧ t.dt ≠ (strict.setReg 0 5).dt) ∧
    ∃ t, exec (.ldStX 0) (strict.setReg 0 5) = .next t ∧ t.st ≠ (strict.setReg 0 5).st :=
  ⟨⟨_, rfl, by decide⟩, ⟨_, rfl, by decide⟩, ⟨_, rfl, by decide⟩⟩
theorem witness_JumpsSetPc : CanRead [.v 0] State.reset ∧ CanRead [.v 0] (strict.setReg 0 0xFF) := by decide
theorem witness_CallPushesOwnAddress : (State.reset.setSp 15).sp = 15 ∧ (State.reset.setSp 14).sp.toNat < 15 := by decide
theorem witness_ReturnPopsEntry : State.reset.sp = 0 ∧ 1 ≤ (State.reset.setSp 1).sp.toNat ∧ (State.reset.setSp 15).sp.toNat ≤ 15 := by decide
theorem witness_StackPointerAboveFifteenRefused : 15 < (State.reset.setSp 16).sp.toNat := by decide
theorem witness_CallThenReturnResumes : State.reset.sp.toNat < 15 ∧ ∃ t, exec (.call 0x400) State.reset = .next t ∧
    (t.setReg 0 1).sp = t.sp ∧ (t.setReg 0 1).stackEntry 1 = t.stackEntry 1 := ⟨by decide, _, rfl, rfl, rfl⟩
theorem witness_SkipsOnImmediate : CanRead [.v 3] (atReset [(3, 0x42)]) ∧ (atReset [(3, 0x42)]).reg 3 = 0x42 ∧
    (atReset [(3, 0x42)]).reg 3 ≠ 0x41 := by decide
theorem witness_SkipsOnRegisters : CanRead [.v 1, .v 2] (atReset [(1, 9), (2, 8)]) ∧ (atReset [(1, 9), (2, 8)]).reg 1 ≠ (atReset [(1, 9), (2, 8)]).reg 2 ∧
    (atReset [(1, 9)]).reg 1 = (atReset [(1, 9)]).reg 1 ∧ (15 : BitVec 4) ≠ 0 := by decide

/-- Two registers written under UNINIT_POLICY = Fault. -/
theorem witness_two_registers_readable : CanRead [.v 0, .v 1] ((strict.setReg 0 0x80).setReg 1 0x80) := by decide
theorem witness_ImmediateLoadAndAdd : CanRead [.v 15] (atReset [(15, 0xFF)]) := by decide
theorem witness_MoveAndBitwise : CanRead [.v 1] (atReset [(1, 0xF0)]) ∧ CanRead [.v 0, .v 1] (atReset [(0, 0x0F), (1, 0xF0)]) := by decide
theorem witness_AddSetsCarry : CanRead [.v 15, .v 1] (atReset [(15, 0xF0), (1, 0x20)]) ∧ CanRead [.v 0, .v 1] (atReset [(0, 0x80), (1, 0x7F)]) := by
  decide
theorem witness_flag_orders : (withParams State.reset { specParams with vfOrder := .resultWins }).cfg.vfOrder = .resultWins ∧
    State.reset.cfg.vfOrder = .flagWins := by decide
theorem witness_SubtractSetsNoBorrow : CanRead [.v 0, .v 1] (atReset [(0, 5), (1, 5)]) := by decide
theorem witness_ShiftsSetLostBit : CanRead [.v 0] (strict.setReg 0 0x81) ∧ strict.readable (.v 1) = false := by decide
theorem witness_RandomCombines : (State.reset.supplyRandom 0x37).random.ask = some (0x37, { queue := [], after := none }) ∧
    State.reset.random.ask = none ∧ State.reset.cfg.randCombine = .add ∧
    (withParams State.reset { specParams with randCombine := .and }).cfg.randCombine = .and := by decide
theorem witness_IndexIsSet : CanRead [.v 0, .i] ((atReset [(0, 1)]).setI 0xFFFF) ∧ CanRead [.v 0] (atReset [(0, 0xFF)]) := by decide
theorem witness_BcdIsStored_in : CanRead [.v 0, .i] (State.reset.setI 0xFFD) ∧ (State.reset.setI 0xFFD).i.toNat + 2 ≤ 0xFFF := by decide
theorem witness_BcdIsStored_out : CanRead [.v 0, .i] (State.reset.setI 0xFFE) ∧ 0xFFF < (State.reset.setI 0xFFE).i.toNat + 2 := by decide
theorem witness_BlockStore_in : CanRead (readSet (.ldMemX 15)) (State.reset.setI 0xFF0) ∧
    (State.reset.setI 0xFF0).i.toNat + (15 : Reg).val ≤ 0xFFF := by decide
theorem witness_BlockStore_out : CanRead (readSet (.ldMemX 15)) (State.reset.setI 0xFF1) ∧
    0xFFF < (State.reset.setI 0xFF1).i.toNat + (15 : Reg).val := by decide
theorem witness_BlockLoad_in : CanRead [.i] (strict.setI 0xFFF) ∧ (strict.setI 0xFFF).i.toNat + (0 : Reg).val ≤ 0xFFF := by decide
theorem witness_BlockLoad_out : CanRead [.i] (strict.setI 0x1000) ∧ 0xFFF < (strict.setI 0x1000).i.toNat + (0 : Reg).val := by decide
theorem witness_StoredWordIsFetchedNext : let s := (State.reset.setPc 0xFFC).setI 0xFFE
    CanRead (readSet (.ldMemX 1)) s ∧ 1 ≤ (1 : Reg).val ∧ s.i.toNat = s.pc.toNat + 2 ∧ s.i.toNat + (1 : Reg).val ≤ 0xFFF := by decide
theorem witness_SkipsOnKey_key : CanRead [.v 1] (withKey State.reset (.key 15)) ∧
    (withKey State.reset (.key 15)).keypad.ask = some (.key 15, { queue := [], after := none }) := by decide
theorem witness_SkipsOnKey_noKey : State.reset.keypad.ask = some (.noKey, State.reset.keypad) ∧ State.reset.cfg.noKey = .noPress := by decide
theorem witness_KeyWaitWritesKey : (withKey State.reset (.key 0)).keypad.ask = some (.key 0, { queue := [], after := none }) := by decide
theorem witness_KeyWaitWritesKey_retry : let s := withKey (about 0xF40A) .noKey
    s.keypad.ask = some (.noKey, { queue := [], after := none }) ∧ s.cfg.noKey = .noPress ∧ AboutToRun s (.ldXK 4) ∧
    s.readable .dt = true ∧ s.readable .st = true ∧ s.stopReq = false := by decide
theorem witness_KeyQueryStops_error : (withKey State.reset (.error 7)).keypad.ask = some (.error 7, { queue := [], after := none }) := by decide
theorem witness_KeyQueryStops_failure : let s := withParams State.reset { specParams with noKey := .failure }
    s.keypad.ask = some (.noKey, s.keypad) ∧ s.cfg.noKey = .failure := by decide
theorem witness_KeyQueryStops_quit : (withKey State.reset .quit).keypad.ask = some (.quit, { queue := [], after := none }) := by decide
theorem witness_TimerMoves_read : CanRead [.dt] (about 0xF107) ∧ AboutToRun (about 0xF107) (.ldXDt 1) := by decide
theorem witness_TimerMoves_write : CanRead [.v 0] (about 0xF015) ∧ AboutToRun (about 0xF015) (.ldDtX 0) ∧
    CanRead [.v 0] (about 0xF018) ∧ AboutToRun (about 0xF018) (.ldStX 0) := by decide

/-- F015 at PC, F107 after it. -/
def delayPair : State := (atReset [(0, 3)]).placeCode [0xF0, 0x15, 0xF1, 0x07]
theorem witness_DelayReadAfterWriteIsOneLess : AboutToRun delayPair (.ldDtX 0) ∧ CanRead [.v 0] delayPair ∧
    ∃ t, step delayPair = .next t ∧ AboutToRun t (.ldXDt 1) := ⟨by decide, by decide, _, rfl, by decide⟩

theorem witness_sprite_rows : (List.replicate 15 (0xFF : Byte)).length ≤ 15 ∧ ([] : List Byte).length ≤ 15 := by decide
theorem witness_DrawSprite_in : CanDraw 0 1 1 (State.reset.setI 0xFFF) ∧ CanDraw 0 1 0 (State.reset.setI 0xFFFF) ∧
    State.reset.display.ask = some (.ok, State.reset.display) := by decide
theorem witness_DrawSprite_out : CanRead [.v 0, .v 1, .i] (State.reset.setI 0xFFF) ∧ 0 < 2 ∧
    0xFFF < (State.reset.setI 0xFFF).i.toNat + 2 - 1 := by decide
theorem witness_DrawSprite_error : CanDraw 0 1 1 (withRender State.reset (.error 4)) ∧ (withRender State.reset (.error 4)).run = .running ∧
    (withRender State.reset (.error 4)).display.ask = some (.error 4, { queue := [], after := none }) := by decide
theorem witness_DrawSprite_collision : Collision [0x80] 5 5 (Pixels.put Pixels.blank 5 5 true) ∧ ¬ Collision [0x00] 5 5 Pixels.blank := by
  refine ⟨⟨5, 5, by decide, by decide⟩, ?_⟩
  rintro ⟨px, py, h, -⟩
  simp [Pixels.at, Pixels.blank] at h
theorem witness_DrawTwiceRestores : ∀ (px : Fin 64) (py : Fin 32), Pixels.at Pixels.blank px.val py.val = false := by
  intro px py; simp [Pixels.at, Pixels.blank]
theorem witness_DrawAwaitsDisplay_request : let s := (about 0xD011).setDisplay { queue := [], after := none }
    AboutToRun s (.drw 0 1 1) ∧ CanDraw 0 1 1 s ∧ s.display.ask = none := by decide
theorem witness_DrawAwaitsDisplay_waits : let w := (State.reset.setWaiting (some .render)).setDisplay { queue := [], after := none }
    w.run = .running ∧ w.waiting = some .render ∧ w.display.ask = none := by decide
theorem witness_DrawAwaitsDisplay_ok : let w := State.reset.setWaiting (some .render)
    w.run = .running ∧ w.waiting = some .render ∧ w.display.ask = some (.ok, w.display) := by decide
theorem witness_DrawAwaitsDisplay_error : let w := withRender (State.reset.setWaiting (some .render)) (.error 4)
    w.run = .running ∧ w.waiting = some .render ∧ w.display.ask = some (.error 4, { queue := [], after := none }) := by decide
theorem witness_FailedRenderIsRecorded : let s := withRender (about 0xD011) (.error 4)
    AboutToRun s (.drw 0 1 1) ∧ CanDraw 0 1 1 s ∧ s.display.ask = some (.error 4, { queue := [], after := none }) := by decide
theorem witness_FaultRecordsByInstruction_render : let w := withRender (State.reset.setWaiting (some .render)) (.error 4)
    w.waiting = some .render ∧ step w = .fault (.displayFailure 4 0x200) := ⟨rfl, rfl⟩

end Sys2Proof.Tests
end

section
/-! The launch (R221, R243, R246): creation in memory bytes and registers, what the load makes of them, and the three outcomes of
a launch. -/

namespace Sys2Proof.Machine

/-! ### Creation (R37, R241) -/

/-- Memory lists nothing at creation. -/
theorem byteAt_create (p : Params) (a : Nat) : (State.create p).byteAt a = Memory.unlisted p.font a := rfl

theorem unlisted_of_lt {font : Font} {a : Nat} (h : a < 80) : Memory.unlisted font a = font[a] := dif_pos h

theorem unlisted_of_ge {font : Font} {a : Nat} (h : 80 ≤ a) : Memory.unlisted font a = 0 := dif_neg (by omega)

theorem has_create (p : Params) (el : Element) : (State.create p).written.has el = false := by
  cases el with
  | v x => simp [State.create, Written.has, Vector.get_eq_getElem]
  | i | dt | st => rfl

theorem cleanRegs_create (p : Params) : CleanRegs (State.create p) := by
  have reg (x : Reg) : (State.create p).reg x = 0 := by simp [State.create, State.reg, Vector.get_eq_getElem]
  have entry (j : Fin 16) : (State.create p).stackEntry j.val = 0 := by simp [State.create, State.stackEntry]
  exact ⟨fun _ => ⟨reg, rfl, rfl, rfl⟩, rfl, entry, fun _ _ => at_blank, has_create p⟩

/-! ### The load (R243) -/

/-- The machine with the image written from LOAD_OFFSET. -/
def State.withImage (s : State) (image : List Byte) : State :=
  s.setMem (Memory.writeBytes s.cfg.font s.mem s.cfg.loadOffset.toNat image)

theorem load_of_fits {s : State} {image : List Byte} (h : image.length ≤ 4096 - s.cfg.loadOffset.toNat) :
    load s image = .loaded (s.withImage image) image.length := if_neg (by omega)

theorem load_of_too_long {s : State} {image : List Byte} (h : 4096 - s.cfg.loadOffset.toNat < image.length) :
    load s image = .loadOverflow := if_pos h

theorem withImage_imageAt (s : State) (image : List Byte) : ImageAt image (s.withImage image) :=
  fun _ hk => byteAt_written hk

theorem withImage_sameMemoryBut (s : State) (image : List Byte) :
    SameMemoryBut s.cfg.loadOffset.toNat image.length s (s.withImage image) :=
  fun _ ha => byteAt_not_written ha

/-- CleanRegs speaks of no byte of memory. -/
theorem withImage_cleanRegs {s : State} (h : CleanRegs s) (image : List Byte) : CleanRegs (s.withImage image) := h

/-! ### The launch (R221, R243) -/

theorem launch_of_not_wf {p : Params} (h : ¬ p.wf) (image : List Byte) : launch p image = .offsetRefused := if_neg h

theorem launch_of_fits {p : Params} {image : List Byte} (hp : p.wf) (h : image.length ≤ 4096 - p.loadOffset.toNat) :
    launch p image = .started ((State.create p).withImage image) := by
  rw [launch, if_pos hp, load_of_fits h]

theorem launch_of_too_long {p : Params} {image : List Byte} (hp : p.wf) (h : 4096 - p.loadOffset.toNat < image.length) :
    launch p image = .loadOverflow := by
  rw [launch, if_pos hp, load_of_too_long h]

/-! ### The launch premises (R246) -/

/-- The font region lies below LOAD_OFFSET, so the image does not reach it. -/
theorem launched_fontLoaded {p : Params} (hp : p.wf) (image : List Byte) :
    FontLoaded ((State.create p).withImage image) := by
  intro a
  obtain ⟨offset_ge, -, -⟩ := hp
  have below : a.val < p.loadOffset.toNat := by omega
  calc ((State.create p).withImage image).byteAt a.val
      = (State.create p).byteAt a.val := withImage_sameMemoryBut _ image a.val (.inl below)
    _ = p.font.get a := by rw [byteAt_create, unlisted_of_lt a.isLt, Vector.get_eq_getElem]

theorem launched_zeroElsewhere (p : Params) (image : List Byte) :
    ZeroElsewhere image ((State.create p).withImage image) := by
  intro a h50 _ outside
  rw [withImage_sameMemoryBut (State.create p) image a outside, byteAt_create, unlisted_of_ge h50]

/-- Settles O7: a launch in range whose image fits is creation with the image written, and each premise of R246 is read off
that state; the two other clauses are the other two branches of the launch. -/
theorem launchMeetsPremises : Obligations.LaunchMeetsPremises := by
  intro p image
  refine ⟨fun hp fits => ?_, fun hp => launch_of_not_wf hp image, launch_of_too_long⟩
  exact ⟨(State.create p).withImage image, launch_of_fits hp fits, rfl, launched_fontLoaded hp image,
    launched_zeroElsewhere p image, withImage_imageAt _ image, rfl, withImage_cleanRegs (cleanRegs_create p) image, rfl, rfl⟩

end Sys2Proof.Machine
end

section
/-! What an instruction's execution can do, said once for all 34 (40 to 44 of spec/): the updates it completes with, the reads
it has made, and its other ends. The statements about every instruction are read off this. -/

namespace Sys2Proof.Machine

/-! ### The updates -/

/-- The updates with which an instruction completes, by the parts of the state and the registers that they may write. -/
inductive Effect (s : State) : List Part → List Reg → State → Prop
  /-- 00E0. -/
  | clears (p : Pixels) : Effect s [.pix, .pc] [] ((s.setPix p).advance 2)
  /-- 1NNN, BNNN: the farthest target is 0xFFF + 0xFF (R24). -/
  | jumps {w : Word} (le : w.toNat ≤ 0x10FE) : Effect s [.pc] [] (s.setPc w)
  /-- 3XNN, 4XNN, 5XY0, 9XY0. -/
  | skips (c : Bool) : Effect s [.pc] [] (s.skipIf c)
  /-- 2NNN. -/
  | calls {w : Word} (le : w.toNat ≤ 0x10FE) (room : s.sp.toNat < 15) :
      Effect s [.pc, .sp, .stack] [] (((s.setSp (s.sp + 1)).setStackEntry (s.sp.toNat + 1) s.pc).setPc w)
  /-- 00EE. -/
  | returns (pos : 1 ≤ s.sp.toNat) (le : s.sp.toNat ≤ 15) :
      Effect s [.pc, .sp] [] ((s.setSp (s.sp - 1)).setPc (s.stackEntry s.sp.toNat + 2))
  /-- 6XNN, 7XNN, 8XY0 to 8XY3, FX07. -/
  | writesReg (x : Reg) (b : Byte) : Effect s [.v, .written, .pc] [x] ((s.setReg x b).advance 2)
  /-- 8XY4 to 8XYE. -/
  | writesFlag (x : Reg) (b : Byte) (c : Bool) :
      Effect s [.v, .written, .pc, .draws] [x, vf] ((writeResultAndFlag s x b c).advance 2)
  /-- CXNN with a byte of the host. -/
  | drawsHostByte (x : Reg) (b : Byte) (rest : Port Byte) :
      Effect s [.v, .written, .pc, .random, .draws] [x] (((s.setRandom rest).setReg x b).advance 2)
  /-- CXNN with a free value. -/
  | drawsFreeByte (x : Reg) (b : Byte) :
      Effect s [.v, .written, .pc, .random, .draws] [x] ((s.countDraw.setReg x b).advance 2)
  /-- ANNN, FX1E, FX29. -/
  | writesI (w : Word) : Effect s [.i, .written, .pc] [] ((s.setI w).advance 2)
  /-- FX33, FX55. -/
  | stores {bs : List Byte} (fits : bs.length = 0 ∨ s.i.toNat + bs.length ≤ 0x1000) :
      Effect s [.mem, .pc] [] ((s.setMem (Memory.writeBytes s.cfg.font s.mem s.i.toNat bs)).advance 2)
  /-- FX65. -/
  | loads {xs : List Reg} {rbs : List (Reg × Byte)} (sub : ∀ p ∈ rbs, p.1 ∈ xs) :
      Effect s [.v, .written, .pc] xs ((s.setRegs rbs).advance 2)
  /-- DXYN with an `Ok` at hand. -/
  | draws (p : Pixels) (b : Byte) (e : Event) (rest : Port DisplayAnswer) :
      Effect s [.pix, .v, .written, .pc, .display, .waiting, .trace] [vf]
        (((((s.setPix p).setReg vf b).emit e).setDisplay rest).advance 2)
  /-- DXYN, its request made. -/
  | awaitsDisplay (p : Pixels) (b : Byte) (e : Event) :
      Effect s [.pix, .v, .written, .pc, .display, .waiting, .trace] [vf]
        ((((s.setPix p).setReg vf b).emit e).setWaiting (some .render))
  /-- FX15. -/
  | writesDt (b : Byte) : Effect s [.dt, .written, .pc] [] ((s.setDt b).advance 2)
  /-- FX18. -/
  | writesSt (b : Byte) : Effect s [.st, .written, .pc] [] ((s.setSt b).advance 2)
  /-- A key query without an answer. -/
  | awaitsKey {ps : List Part} {xs : List Reg} (mem : Part.waiting ∈ ps) : Effect s ps xs (s.setWaiting (some .getKey))
  /-- A key query answered `Quit`. -/
  | quits {ps : List Part} {xs : List Reg} (rest : Port KeyAnswer) (sub : ∀ p ∈ [Part.keypad, .run], p ∈ ps) :
      Effect s ps xs ((s.setKeypad rest).setRun .stoppedClean)
  /-- EX9E, EXA1. -/
  | skipsOnKey (rest : Port KeyAnswer) (c : Bool) :
      Effect s [.pc, .keypad, .run, .waiting] [] ((s.setKeypad rest).skipIf c)
  /-- FX0A without a key. -/
  | retries (x : Reg) (rest : Port KeyAnswer) :
      Effect s [.v, .written, .pc, .keypad, .run, .waiting] [x] (s.setKeypad rest)
  /-- FX0A with a key. -/
  | storesKey (x : Reg) (b : Byte) (rest : Port KeyAnswer) :
      Effect s [.v, .written, .pc, .keypad, .run, .waiting] [x] (((s.setKeypad rest).setReg x b).advance 2)

/-! ### The ends -/

/-- A plain instruction has read all its elements; of a key query, whose answer comes first, nothing is said. -/
abbrev HasRead (i : Instr) (s : State) : Prop := isKeyQuery i = false → CanRead (readSet i) s

/-- How the execution of an instruction ends: with UninitRead of an element it reads, or with its reads made. -/
inductive ExecEnds (i : Instr) (s : State) : Result → Prop
  | completes {t : State} (reads : HasRead i s)
      (effect : Effect s (mayChange i) (destRegs i) t) : ExecEnds i s (.next t)
  | faults {f : Fault} (reads : HasRead i s)
      (kind : ∀ el pc, f ≠ .uninitRead el pc) : ExecEnds i s (.fault f)
  | unwritten {el : Element} (mem : el ∈ readSet i) (unreadable : s.readable el = false) :
      ExecEnds i s (.fault (.uninitRead el s.pc))
  | refuses {r : Refusal} (reads : HasRead i s) (sp_gt : 15 < s.sp.toNat) :
      ExecEnds i s (.refused r)

section Ends
variable {i : Instr} {s : State}

/-! One rule for each operation of Machine/Ops.lean that can end an instruction. -/

theorem ExecEnds.need {el : Element} {k : Result} (mem : el ∈ readSet i)
    (h : s.readable el = true → ExecEnds i s k) : ExecEnds i s (need s el k) := by
  rcases need_cases s el k with ⟨hr, e⟩ | ⟨hr, e⟩ <;> rw [e]
  · exact h hr
  · exact .unwritten mem hr

theorem ExecEnds.needRegs {rs : List Reg} {k : List Byte → Result} (mem : ∀ r ∈ rs, .v r ∈ readSet i)
    (h : (∀ r ∈ rs, s.readable (.v r) = true) → ExecEnds i s (k (rs.map s.reg))) : ExecEnds i s (needRegs s rs k) := by
  rcases needRegs_cases s rs k with ⟨hr, e⟩ | ⟨r, hr, hr', e⟩ <;> rw [e]
  · exact h hr
  · exact .unwritten (mem r hr) hr'

theorem ExecEnds.memRead {addr n : Nat} {k : List Byte → Result} (reads : CanRead (readSet i) s)
    (h : ∀ bs, ExecEnds i s (k bs)) : ExecEnds i s (memRead s addr n k) := by
  rcases memRead_cases s addr n k with ⟨-, e⟩ | ⟨-, -, e⟩ <;> rw [e]
  · exact h _
  · exact .faults (fun _ => reads) nofun

theorem ExecEnds.memWrite {addr : Nat} {bs : List Byte} {k : State → Result} (reads : CanRead (readSet i) s)
    (h : bs.length = 0 ∨ addr + bs.length ≤ 0x1000 →
      ExecEnds i s (k (s.setMem (Memory.writeBytes s.cfg.font s.mem addr bs)))) : ExecEnds i s (memWrite s addr bs k) := by
  rcases memWrite_cases s addr bs k with ⟨fits, e⟩ | ⟨-, -, e⟩ <;> rw [e]
  · exact h fits
  · exact .faults (fun _ => reads) nofun

theorem ExecEnds.keyQuery {k : Option KeyCode → State → Result} (query : isKeyQuery i = true)
    (sub : ∀ p ∈ [Part.waiting, .keypad, .run], p ∈ mayChange i)
    (h : ∀ key rest, ExecEnds i s (k key (s.setKeypad rest))) : ExecEnds i s (keyQuery s k) := by
  have reads : HasRead i s := fun plain => by simp [query] at plain
  rcases keyQuery_cases s k with
    ⟨-, e⟩ | ⟨_, rest, -, e⟩ | ⟨rest, -, -, e⟩ | ⟨_, -, -, e⟩ | ⟨rest, -, e⟩ | ⟨_, _, -, e⟩ <;> rw [e]
  · exact .completes reads (.awaitsKey (sub _ (by simp)))
  · exact h _ _
  · exact h _ _
  · exact .faults reads nofun
  · exact .completes reads (.quits rest fun p hp => sub p (by simp_all))
  · exact .faults reads nofun

/-! The instructions that read one element or two and then complete. -/

theorem execEnds_of_no_read {t : State} (none : readSet i = []) (effect : Effect s (mayChange i) (destRegs i) t) :
    ExecEnds i s (.next t) :=
  .completes (fun _ => by simp [CanRead, none]) effect

theorem execEnds_of_one_read {el : Element} {t : State} (one : readSet i = [el])
    (effect : Effect s (mayChange i) (destRegs i) t) : ExecEnds i s (need s el (.next t)) :=
  .need (by simp [one]) fun h => .completes (fun _ => by simpa [CanRead, one] using h) effect

theorem execEnds_of_two_reads {a b : Element} {t : State} (two : readSet i = [a, b])
    (effect : Effect s (mayChange i) (destRegs i) t) : ExecEnds i s (need s a (need s b (.next t))) :=
  .need (by simp [two]) fun ha => .need (by simp [two]) fun hb =>
    .completes (fun _ => by simp [CanRead, two, ha, hb]) effect

end Ends

/-! ### The targets -/

theorem addrOf_toNat (nnn : BitVec 12) : (addrOf nnn).toNat = nnn.toNat := by
  simp only [addrOf, BitVec.toNat_setWidth]; omega

theorem zext16_toNat (b : Byte) : (zext16 b).toNat = b.toNat := by
  simp only [zext16, BitVec.toNat_setWidth]; omega

/-- A jump's target is at most 0xFFF (R122). -/
theorem addrOf_le (nnn : BitVec 12) : (addrOf nnn).toNat ≤ 0xFFF := by
  rw [addrOf_toNat]; omega

/-- BNNN's target is at most 0xFFF + 0xFF (R24, R128). -/
theorem addrOf_add_zext16_le (nnn : BitVec 12) (b : Byte) : (addrOf nnn + zext16 b).toNat ≤ 0x10FE := by
  rw [BitVec.toNat_add, addrOf_toNat, zext16_toNat]; omega

/-! ### The instructions that are more than reads and one update -/

theorem ret_ends (s : State) : ExecEnds .ret s (exec .ret s) := by
  rcases popReturn_cases s fun a t => .next (t.setPc (a + 2)) with ⟨-, e⟩ | ⟨pos, le, e⟩ | ⟨gt, e⟩ <;>
    rw [exec, execRet, e]
  · exact .faults (fun _ => nofun) nofun
  · exact execEnds_of_no_read rfl (.returns pos le)
  · exact .refuses (fun _ => nofun) gt

theorem call_ends (nnn : BitVec 12) (s : State) : ExecEnds (.call nnn) s (exec (.call nnn) s) := by
  rcases pushReturn_cases s fun t => .next (t.setPc (addrOf nnn)) with ⟨-, e⟩ | ⟨room, e⟩ | ⟨gt, e⟩ <;>
    rw [exec, execCall, e]
  · exact .faults (fun _ => nofun) nofun
  · exact execEnds_of_no_read rfl (.calls ((addrOf_le nnn).trans (by omega)) room)
  · exact .refuses (fun _ => nofun) gt

theorem rnd_ends (x : Reg) (nn : Byte) (s : State) : ExecEnds (.rnd x nn) s (exec (.rnd x nn) s) := by
  rcases drawByte_cases s fun r t => .next ((t.setReg x (combineRandom s.cfg.randCombine r nn)).advance 2) with
    ⟨r, rest, -, e⟩ | ⟨-, e⟩ <;> rw [exec, execRnd, e]
  · exact execEnds_of_no_read rfl (.drawsHostByte x _ rest)
  · exact execEnds_of_no_read rfl (.drawsFreeByte x _)

theorem drw_ends (x y : Reg) (n : Nat) (s : State) : ExecEnds (.drw x y n) s (exec (.drw x y n) s) := by
  refine .need (el := .v x) (by simp [readSet]) fun hx => .need (el := .v y) (by simp [readSet]) fun hy =>
    .need (el := .i) (by simp [readSet]) fun hi => ?_
  have reads : CanRead (readSet (.drw x y n)) s := by simp [CanRead, readSet, hx, hy, hi]
  refine .memRead reads fun rows => ?_
  rcases render_cases (drawSprite s rows (s.reg x) (s.reg y)) finishDraw with ⟨rest, -, e⟩ | ⟨-, e⟩ <;> rw [e]
  · exact .completes (fun _ => reads) (.draws _ _ _ rest)
  · exact .completes (fun _ => reads) (.awaitsDisplay _ _ _)

/-- EX9E and EXA1 in one: a skip if `c` holds of the queried key and V[X] (R191, R192). -/
def skipOnKey (c : Option KeyCode → Byte → Bool) (x : Reg) (s : State) : Result :=
  keyQuery s fun key t => needReg t x fun a => .next (t.skipIf (c key a))

theorem exec_skp (x : Reg) (s : State) : exec (.skp x) s = skipOnKey keyMatches x s := rfl

theorem exec_sknp (x : Reg) (s : State) : exec (.sknp x) s = skipOnKey (fun key a => !keyMatches key a) x s := rfl

theorem skipOnKey_ends {i : Instr} {x : Reg} (query : isKeyQuery i = true) (reads : readSet i = [.v x])
    (parts : mayChange i = [.pc, .keypad, .run, .waiting]) (regs : destRegs i = []) (c : Option KeyCode → Byte → Bool)
    (s : State) : ExecEnds i s (skipOnKey c x s) := by
  refine .keyQuery query (by simp [parts]) fun key rest => ?_
  have effect : Effect s (mayChange i) (destRegs i) ((s.setKeypad rest).skipIf (c key (s.reg x))) := by
    rw [parts, regs]; exact .skipsOnKey rest _
  exact execEnds_of_one_read reads effect

theorem ldXK_ends (x : Reg) (s : State) : ExecEnds (.ldXK x) s (exec (.ldXK x) s) := by
  refine .keyQuery rfl (by simp [mayChange]) fun key rest => ?_
  cases key with
  | none => exact execEnds_of_no_read rfl (.retries x rest)
  | some c => exact execEnds_of_no_read rfl (.storesKey x _ rest)

theorem addIX_ends (x : Reg) (s : State) : ExecEnds (.addIX x) s (exec (.addIX x) s) :=
  .need (by simp [readSet]) fun hi => .need (by simp [readSet]) fun hx =>
    .completes (fun _ => by simp [CanRead, readSet, hi, hx]) (.writesI _)

theorem ldBX_ends (x : Reg) (s : State) : ExecEnds (.ldBX x) s (exec (.ldBX x) s) := by
  refine .need (el := .v x) (by simp [readSet]) fun hx => .need (el := .i) (by simp [readSet]) fun hi => ?_
  have reads : CanRead (readSet (.ldBX x)) s := by simp [CanRead, readSet, hx, hi]
  exact .memWrite reads fun fits => .completes (fun _ => reads) (.stores fits)

theorem ldMemX_ends (x : Reg) (s : State) : ExecEnds (.ldMemX x) s (exec (.ldMemX x) s) := by
  refine .need (el := .i) (by simp [readSet]) fun hi => .needRegs (by simp [readSet]) fun hr => ?_
  have reads : CanRead (readSet (.ldMemX x)) s := by simpa [CanRead, readSet, hi] using hr
  exact .memWrite reads fun fits => .completes (fun _ => reads) (.stores fits)

theorem ldXMem_ends (x : Reg) (s : State) : ExecEnds (.ldXMem x) s (exec (.ldXMem x) s) := by
  refine .need (el := .i) (by simp [readSet]) fun hi => ?_
  have reads : CanRead (readSet (.ldXMem x)) s := by simpa [CanRead, readSet] using hi
  exact .memRead reads fun bs => .completes (fun _ => reads) (.loads fun p hp => (List.of_mem_zip hp).1)

/-- Every execution ends in one of the ways of `ExecEnds`. -/
theorem exec_ends (i : Instr) (s : State) : ExecEnds i s (exec i s) :=
  match i with
  | .cls => execEnds_of_no_read rfl (.clears _)
  | .ret => ret_ends s
  | .jp nnn => execEnds_of_no_read rfl (.jumps ((addrOf_le nnn).trans (by omega)))
  | .call nnn => call_ends nnn s
  | .seImm _ _ | .sneImm _ _ => execEnds_of_one_read rfl (.skips _)
  | .seReg _ _ | .sneReg _ _ => execEnds_of_two_reads rfl (.skips _)
  | .ldImm x _ => execEnds_of_no_read rfl (.writesReg x _)
  | .addImm x _ | .ldReg x _ | .ldXDt x => execEnds_of_one_read rfl (.writesReg x _)
  | .orReg x _ | .andReg x _ | .xorReg x _ => execEnds_of_two_reads rfl (.writesReg x _)
  | .addReg x _ | .sub x _ | .subn x _ => execEnds_of_two_reads rfl (.writesFlag x _ _)
  | .shr x _ | .shl x _ => execEnds_of_one_read rfl (.writesFlag x _ _)
  | .ldI _ => execEnds_of_no_read rfl (.writesI _)
  | .jpV0 nnn => execEnds_of_one_read rfl (.jumps (addrOf_add_zext16_le nnn _))
  | .rnd x nn => rnd_ends x nn s
  | .drw x y n => drw_ends x y n s
  | .skp x => exec_skp x s ▸ skipOnKey_ends rfl rfl rfl rfl _ s
  | .sknp x => exec_sknp x s ▸ skipOnKey_ends rfl rfl rfl rfl _ s
  | .ldXK x => ldXK_ends x s
  | .ldDtX _ => execEnds_of_one_read rfl (.writesDt _)
  | .ldStX _ => execEnds_of_one_read rfl (.writesSt _)
  | .addIX x => addIX_ends x s
  | .ldFX _ => execEnds_of_one_read rfl (.writesI _)
  | .ldBX x => ldBX_ends x s
  | .ldMemX x => ldMemX_ends x s
  | .ldXMem x => ldXMem_ends x s

/-- An instruction that completes has one of the effects. -/
theorem effect_of_exec {i : Instr} {s t : State} (h : exec i s = .next t) : Effect s (mayChange i) (destRegs i) t := by
  have ends := exec_ends i s
  rw [h] at ends
  cases ends with
  | completes _ effect => exact effect

end Sys2Proof.Machine
end

section
/-! The invariant of every run: it holds at launch, each effect of an instruction keeps it, and so does every step (R24, R26,
R27, R31, R53). -/

namespace Sys2Proof.Machine

variable {s t : State}

/-! ### What the shared operations write, in whole fields -/

theorem setRegs_writes (s : State) (rbs : List (Reg × Byte)) :
    ∃ v w, s.setRegs rbs = { s with v := v, written := w } := by
  induction rbs generalizing s with
  | nil => exact ⟨_, _, rfl⟩
  | cons p rest ih => exact ih (s.setReg p.1 p.2)

theorem writeResultAndFlag_writes (s : State) (x : Reg) (b : Byte) (c : Bool) :
    ∃ v w d, writeResultAndFlag s x b c = { s with v := v, written := w, draws := d } := by
  rcases writeResultAndFlag_cases s x b c with ⟨-, e⟩ | ⟨-, -, e⟩ | ⟨-, -, e⟩ | ⟨-, -, e⟩ <;> exact ⟨_, _, _, e⟩

/-! ### Creation and launch -/

theorem create_inv {p : Params} (hp : p.wf) : (State.create p).Inv where
  mem_wf := wf_create p
  sp_le := Nat.zero_le _
  entry_zero := by simp [State.create, State.stackEntry]
  stack_le j := by simp [State.create, State.stackEntry]
  pc_le := hp.2.1.trans (by omega)
  waiting_pc := nofun
  cfg_wf := hp

/-- The only machine that a launch starts is a created one with an image that fits. -/
theorem launch_started {p : Params} {image : List Byte} (h : launch p image = .started s) :
    p.wf ∧ image.length ≤ 4096 - p.loadOffset.toNat ∧ s = (State.create p).withImage image := by
  by_cases hp : p.wf
  · by_cases fits : image.length ≤ 4096 - p.loadOffset.toNat
    · rw [launch_of_fits hp fits] at h
      exact ⟨hp, fits, (LaunchResult.started.inj h).symm⟩
    · rw [launch_of_too_long hp (by omega)] at h; cases h
  · rw [launch_of_not_wf hp] at h; cases h

theorem launched_inv {p : Params} {image : List Byte} (hp : p.wf) (fits : image.length ≤ 4096 - p.loadOffset.toNat) :
    ((State.create p).withImage image).Inv := by
  have created := create_inv hp
  have offset_le := hp.2.1
  exact { created with mem_wf := wf_writeBytes created.mem_wf (by show p.loadOffset.toNat + _ ≤ _; omega) }

/-- Settles O8: creation meets the invariant field by field, and the image of a launch is written inside the address space. -/
theorem launchMeetsInvariant : Obligations.LaunchMeetsInvariant := by
  refine ⟨create_inv (by decide), fun p image s started => ?_⟩
  obtain ⟨hp, fits, rfl⟩ := launch_started started
  exact launched_inv hp fits

/-! ### The effects of instructions -/

/-- An update that leaves memory, the parameters, SP and the stack alone has only PC's bounds to keep. -/
theorem State.Inv.move (h : s.Inv) (mem : t.mem = s.mem) (cfg : t.cfg = s.cfg) (sp : t.sp = s.sp)
    (stack : t.stack = s.stack) (pc_le : t.pc.toNat ≤ 0x10FE) (waiting_pc : t.waiting ≠ none → t.pc.toNat ≤ 0xFFE) :
    t.Inv where
  mem_wf := by rw [mem, cfg]; exact h.mem_wf
  sp_le := sp ▸ h.sp_le
  entry_zero := (stackEntry_congr stack 0).trans h.entry_zero
  stack_le j := stackEntry_congr stack j.val ▸ h.stack_le j
  pc_le := pc_le
  waiting_pc := waiting_pc
  cfg_wf := cfg ▸ h.cfg_wf

theorem State.Inv.setPc (h : s.Inv) (idle : s.waiting = none) {w : Word} (le : w.toNat ≤ 0x10FE) : (s.setPc w).Inv :=
  h.move rfl rfl rfl rfl le fun waits => absurd idle waits

/-- After an instruction fetched at PC, PC + 2 and PC + 4 stay far from a wrap (R24, R53). -/
theorem pc_add_le {pc n : Word} (fetched : pc.toNat ≤ 0xFFE) (n_le : n.toNat ≤ 4) : (pc + n).toNat ≤ 0x10FE := by
  bv_omega

/-- A push below entry 15 writes a fetched address above entry 0 (R27, R123). -/
theorem State.Inv.push (h : s.Inv) (fetched : s.pc.toNat ≤ 0xFFE) (room : s.sp.toNat < 15) :
    ((s.setSp (s.sp + 1)).setStackEntry (s.sp.toNat + 1) s.pc).Inv where
  mem_wf := h.mem_wf
  sp_le := by
    show (s.sp + 1).toNat ≤ 15
    bv_omega
  entry_zero := by
    rw [stackEntry_setStackEntry _ _ _ _ (by omega), if_neg (by omega)]; exact h.entry_zero
  stack_le j := by
    rw [stackEntry_setStackEntry _ _ _ _ (by omega)]
    split
    · exact fetched
    · exact h.stack_le j
  pc_le := h.pc_le
  waiting_pc := h.waiting_pc
  cfg_wf := h.cfg_wf

/-- A pop leaves the stack alone, and lowers an SP that is not 0 (R121). -/
theorem State.Inv.pop (h : s.Inv) (pos : 1 ≤ s.sp.toNat) : (s.setSp (s.sp - 1)).Inv := by
  have le := h.sp_le
  have lowered_le : (s.sp - 1).toNat ≤ 15 := by bv_omega
  exact { h with sp_le := lowered_le }

theorem State.Inv.store (h : s.Inv) {a : Nat} {bs : List Byte} (fits : bs.length = 0 ∨ a + bs.length ≤ 0x1000) :
    (s.setMem (Memory.writeBytes s.cfg.font s.mem a bs)).Inv := by
  rcases fits with empty | fits
  · rw [List.eq_nil_of_length_eq_zero empty]; exact h
  · exact { h with mem_wf := wf_writeBytes h.mem_wf fits }

/-- Every effect of an instruction that was fetched at PC keeps the invariant. -/
theorem Effect.keeps_inv {ps : List Part} {xs : List Reg} (effect : Effect s ps xs t) (h : s.Inv)
    (fetched : s.pc.toNat ≤ 0xFFE) (idle : s.waiting = none) : t.Inv := by
  have next_le : (s.pc + 2).toNat ≤ 0x10FE := pc_add_le fetched (by decide)
  cases effect with
  | jumps le => exact h.setPc idle le
  | skips c => exact h.setPc idle (pc_add_le fetched (by cases c <;> decide))
  | calls le room => exact (h.push fetched room).setPc idle le
  | returns pos le =>
    have entry_le : (s.stackEntry s.sp.toNat).toNat ≤ 0xFFE := h.stack_le ⟨s.sp.toNat, by omega⟩
    exact (h.pop pos).setPc idle (pc_add_le entry_le (by decide))
  | stores fits => exact (h.store fits).setPc idle next_le
  | writesFlag x b c =>
    obtain ⟨_, _, _, e⟩ := writeResultAndFlag_writes s x b c
    rw [e]
    exact h.move rfl rfl rfl rfl next_le fun waits => absurd idle waits
  | @loads _ rbs _ =>
    obtain ⟨_, _, e⟩ := setRegs_writes s rbs
    rw [e]
    exact h.move rfl rfl rfl rfl next_le fun waits => absurd idle waits
  | clears | writesReg | drawsHostByte | drawsFreeByte | writesI | draws | writesDt | writesSt | storesKey =>
    exact h.move rfl rfl rfl rfl next_le fun waits => absurd idle waits
  | skipsOnKey rest c =>
    exact h.move rfl rfl rfl rfl (pc_add_le fetched (by cases c <;> decide)) fun waits => absurd idle waits
  | awaitsDisplay | awaitsKey | quits | retries => exact h.move rfl rfl rfl rfl h.pc_le fun _ => fetched

/-! ### The step (R210) -/

/-- A cycle that answers a next state got it from the instruction's, by the timer decrement or as it is. -/
theorem endCycle_next {o : Result} (h : endCycle o = .next t) : ∃ u, o = .next u ∧ (t = timerDecrement u ∨ t = u) := by
  cases o with
  | next u =>
    refine ⟨u, rfl, ?_⟩
    simp only [endCycle] at h
    split at h
    · exact .inl (Host.Outcome.next.inj h).symm
    · exact .inr (Host.Outcome.next.inj h).symm
  | fault f => cases h
  | refused r => cases h

theorem timerDecrement_inv (h : s.Inv) : (timerDecrement s).Inv := by
  obtain ⟨d, u, e, writes⟩ := timerDecrement_writes s
  rw [writes]
  exact h.move rfl rfl rfl rfl h.pc_le h.waiting_pc

theorem endCycle_inv {o : Result} (h : ∀ u, o = .next u → u.Inv) (ended : endCycle o = .next t) : t.Inv := by
  obtain ⟨u, rfl, rfl | rfl⟩ := endCycle_next ended
  · exact timerDecrement_inv (h u rfl)
  · exact h _ rfl

theorem runInstruction_inv (h : s.Inv) (idle : s.waiting = none) (ran : runInstruction exec s = .next t) : t.Inv := by
  rcases runInstruction_cases exec s with ⟨-, e⟩ | ⟨fetched, w, -, ⟨why, -, e⟩ | ⟨i, -, e⟩⟩ <;> rw [e] at ran
  · cases ran
  · cases ran
  · exact endCycle_inv (fun u executed => (effect_of_exec executed).keeps_inv h fetched idle) ran

theorem resumeDraw_inv (h : s.Inv) (fetched : s.pc.toNat ≤ 0xFFE) (idle : s.waiting = none)
    (resumed : resumeDraw s = .next t) : t.Inv := by
  rcases resumeDraw_cases s with ⟨-, e⟩ | ⟨rest, -, e⟩ | ⟨err, rest, -, e⟩ <;> rw [e] at resumed <;> cases resumed
  · exact h.move rfl rfl rfl rfl h.pc_le fun _ => fetched
  · exact h.move rfl rfl rfl rfl (pc_add_le fetched (by decide)) fun waits => absurd idle waits

/-- Settles O9, by the cases of a step: a stopped core and an observed stop request leave the invariant's fields alone, an
instruction has one of the effects that keep it, and so does the answer to a render request. -/
theorem stepKeepsInvariant : Obligations.StepKeepsInvariant := by
  intro s t h stepped
  have woken : (s.setWaiting none).Inv := h.move rfl rfl rfl rfl h.pc_le nofun
  rcases step_cases s with ⟨-, e⟩ | ⟨-, -, -, e⟩ | ⟨-, -, e⟩ | ⟨-, waits, e⟩ <;> rw [e] at stepped
  · cases stepped
    exact h
  · cases stepped
    exact h.move rfl rfl rfl rfl h.pc_le h.waiting_pc
  · exact runInstruction_inv woken rfl stepped
  · have fetched : s.pc.toNat ≤ 0xFFE := h.waiting_pc (by simp [waits])
    exact endCycle_inv (fun u => resumeDraw_inv woken fetched rfl) stepped

end Sys2Proof.Machine
end

section
/-! What every instruction changes and what it leaves unchanged, read off the effects: the frame by parts and registers, the
written bits, and the ends that cannot happen (R22 to R30, R38, R55, R106, R211). -/

namespace Sys2Proof.Machine

variable {s t u : State}

/-! ### Registers -/

theorem sameRegsBut_refl (xs : List Reg) (s : State) : SameRegsBut xs s s := fun _ _ => rfl

theorem sameRegsBut_trans {xs : List Reg} (h : SameRegsBut xs s t) (h' : SameRegsBut xs t u) : SameRegsBut xs s u :=
  fun x hx => (h' x hx).trans (h x hx)

theorem setReg_sameRegsBut {xs : List Reg} {x : Reg} (mem : x ∈ xs) (s : State) (b : Byte) :
    SameRegsBut xs s (s.setReg x b) :=
  fun _ hy => reg_setReg_other s b fun e => hy (e ▸ mem)

theorem setRegs_sameRegsBut {xs : List Reg} {rbs : List (Reg × Byte)} (sub : ∀ p ∈ rbs, p.1 ∈ xs) (s : State) :
    SameRegsBut xs s (s.setRegs rbs) := by
  induction rbs generalizing s with
  | nil => exact sameRegsBut_refl xs s
  | cons p rest ih =>
    exact sameRegsBut_trans (setReg_sameRegsBut (sub p (by simp)) s p.2) (ih (fun q hq => sub q (by simp [hq])) _)

theorem writeResultAndFlag_sameRegsBut (s : State) (x : Reg) (b : Byte) (c : Bool) :
    SameRegsBut [x, vf] s (writeResultAndFlag s x b c) := by
  have flag (s : State) (b : Byte) : SameRegsBut [x, vf] s (s.setReg vf b) := setReg_sameRegsBut (by simp) s b
  rcases writeResultAndFlag_cases s x b c with ⟨-, e⟩ | ⟨-, -, e⟩ | ⟨-, -, e⟩ | ⟨-, -, e⟩ <;> rw [e]
  · exact sameRegsBut_trans (setReg_sameRegsBut (by simp) s b) (flag _ _)
  · exact flag s _
  · exact flag s _
  · exact flag s _

/-- No effect writes a register outside its list. -/
theorem Effect.sameRegsBut {ps : List Part} {xs : List Reg} (effect : Effect s ps xs t) : SameRegsBut xs s t := by
  cases effect with
  | writesReg x b | drawsHostByte x b _ | drawsFreeByte x b | storesKey x b _ => exact setReg_sameRegsBut (by simp) s b
  | draws _ b _ _ | awaitsDisplay _ b _ => exact setReg_sameRegsBut (by simp) s b
  | writesFlag x b c => exact writeResultAndFlag_sameRegsBut s x b c
  | loads sub => exact setRegs_sameRegsBut sub s
  | clears | jumps | skips | calls | returns | writesI | stores | writesDt | writesSt | awaitsKey | quits | skipsOnKey
  | retries => exact sameRegsBut_refl _ s

/-! ### Parts -/

/-- An update and then PC (R23). -/
theorem advance_after {ps : List Part} (h : SameBut ps s t) (w : Word) : SameBut (ps ++ [.pc]) s (t.setPc w) :=
  sameBut_append h (setPc_frame t w)

/-- No effect changes a part outside its list. -/
theorem Effect.sameBut {ps : List Part} {xs : List Reg} (effect : Effect s ps xs t) : SameBut ps s t := by
  cases effect with
  | clears p => exact advance_after (setPix_frame s p) _
  | jumps | skips => exact setPc_frame s _
  | calls =>
    exact sameBut_mono (advance_after (sameBut_append (setSp_frame s _) (setStackEntry_frame _ _ _)) _) (by decide)
  | returns => exact sameBut_mono (advance_after (setSp_frame s _) _) (by decide)
  | writesReg x b => exact advance_after (setReg_frame s x b) _
  | writesFlag x b c => exact sameBut_mono (advance_after (writeResultAndFlag_frame s x b c) _) (by decide)
  | drawsHostByte x b rest =>
    exact sameBut_mono (advance_after (sameBut_append (setRandom_frame s rest) (setReg_frame _ x b)) _) (by decide)
  | drawsFreeByte x b =>
    exact sameBut_mono (advance_after (sameBut_append (countDraw_frame s) (setReg_frame _ x b)) _) (by decide)
  | writesI w => exact advance_after (setI_frame s w) _
  | stores => exact advance_after (setMem_frame s _) _
  | loads => exact advance_after (setRegs_frame s _) _
  | draws p b e rest =>
    have drawn := sameBut_append (setPix_frame s p) (setReg_frame _ vf b)
    have asked := sameBut_append drawn (emit_frame _ e)
    exact sameBut_mono (advance_after (sameBut_append asked (setDisplay_frame _ rest)) _) (by decide)
  | awaitsDisplay p b e =>
    have drawn := sameBut_append (setPix_frame s p) (setReg_frame _ vf b)
    have asked := sameBut_append drawn (emit_frame _ e)
    exact sameBut_mono (sameBut_append asked (setWaiting_frame _ _)) (by decide)
  | writesDt b => exact advance_after (setDt_frame s b) _
  | writesSt b => exact advance_after (setSt_frame s b) _
  | awaitsKey mem => exact sameBut_mono (setWaiting_frame s _) (by simpa using mem)
  | quits rest sub => exact sameBut_mono (sameBut_append (setKeypad_frame s rest) (setRun_frame _ _)) sub
  | skipsOnKey rest c => exact sameBut_mono (advance_after (setKeypad_frame s rest) _) (by decide)
  | retries x rest => exact sameBut_mono (setKeypad_frame s rest) (by decide)
  | storesKey x b rest =>
    exact sameBut_mono (advance_after (sameBut_append (setKeypad_frame s rest) (setReg_frame _ x b)) _) (by decide)

/-- Settles O20: an instruction that completes has one of the effects, within its tables of parts and registers. -/
theorem onlyNamedPartsChange : Obligations.OnlyNamedPartsChange :=
  fun _ _ _ executed => ⟨(effect_of_exec executed).sameBut, (effect_of_exec executed).sameRegsBut⟩

/-! ### Written bits (R38) -/

/-- Written bits stay, and every register, I, DT and ST that changed is marked. -/
def TracksWrites (s t : State) : Prop :=
  (∀ el, s.written.has el = true → t.written.has el = true) ∧
  (∀ x : Reg, t.reg x ≠ s.reg x → t.written.has (.v x) = true) ∧
  (t.i ≠ s.i → t.written.has .i = true) ∧ (t.dt ≠ s.dt → t.written.has .dt = true) ∧
  (t.st ≠ s.st → t.written.has .st = true)

theorem tracksWrites_refl (s : State) : TracksWrites s s :=
  ⟨fun _ => id, fun _ h => absurd rfl h, fun h => absurd rfl h, fun h => absurd rfl h, fun h => absurd rfl h⟩

/-- A value that changes over two updates changes in one of them, and its bit stays from there on. -/
theorem marked_of_ne {α : Type} {a b c : α} {early late : Prop} (ne : c ≠ a) (first : b ≠ a → early)
    (stays : early → late) (second : c ≠ b → late) : late := by
  by_cases h : b = a
  · exact second (h ▸ ne)
  · exact stays (first h)

theorem tracksWrites_trans (h : TracksWrites s t) (h' : TracksWrites t u) : TracksWrites s u := by
  obtain ⟨stays, reg, i, dt, st⟩ := h
  obtain ⟨stays', reg', i', dt', st'⟩ := h'
  exact ⟨fun el hel => stays' el (stays el hel), fun x ne => marked_of_ne ne (reg x) (stays' _) (reg' x),
    fun ne => marked_of_ne ne i (stays' _) i', fun ne => marked_of_ne ne dt (stays' _) dt',
    fun ne => marked_of_ne ne st (stays' _) st'⟩

theorem has_mark_of_has {w : Written} {el : Element} (marked : Element) (h : w.has el = true) :
    (w.mark marked).has el = true := by simp [h]

theorem setReg_tracksWrites (s : State) (x : Reg) (b : Byte) : TracksWrites s (s.setReg x b) := by
  refine ⟨fun _ => has_mark_of_has _, fun y ne => ?_, fun h => absurd rfl h, fun h => absurd rfl h, fun h => absurd rfl h⟩
  by_cases hy : y = x
  · simp [hy]
  · exact absurd (reg_setReg_other s b hy) ne

theorem setI_tracksWrites (s : State) (w : Word) : TracksWrites s (s.setI w) :=
  ⟨fun _ => has_mark_of_has _, fun _ h => absurd rfl h, fun _ => rfl, fun h => absurd rfl h, fun h => absurd rfl h⟩

theorem setDt_tracksWrites (s : State) (b : Byte) : TracksWrites s (s.setDt b) :=
  ⟨fun _ => has_mark_of_has _, fun _ h => absurd rfl h, fun h => absurd rfl h, fun _ => rfl, fun h => absurd rfl h⟩

theorem setSt_tracksWrites (s : State) (b : Byte) : TracksWrites s (s.setSt b) :=
  ⟨fun _ => has_mark_of_has _, fun _ h => absurd rfl h, fun h => absurd rfl h, fun h => absurd rfl h, fun _ => rfl⟩

theorem setRegs_tracksWrites (s : State) (rbs : List (Reg × Byte)) : TracksWrites s (s.setRegs rbs) := by
  induction rbs generalizing s with
  | nil => exact tracksWrites_refl s
  | cons p rest ih => exact tracksWrites_trans (setReg_tracksWrites s p.1 p.2) (ih _)

theorem writeResultAndFlag_tracksWrites (s : State) (x : Reg) (b : Byte) (c : Bool) :
    TracksWrites s (writeResultAndFlag s x b c) := by
  rcases writeResultAndFlag_cases s x b c with ⟨-, e⟩ | ⟨-, -, e⟩ | ⟨-, -, e⟩ | ⟨-, -, e⟩ <;> rw [e]
  · exact tracksWrites_trans (setReg_tracksWrites s x b) (setReg_tracksWrites _ vf _)
  · exact setReg_tracksWrites s vf _
  · exact setReg_tracksWrites s vf _
  · exact setReg_tracksWrites s vf _

/-- Every effect sets the bits of what it writes and clears none. -/
theorem Effect.tracksWrites {ps : List Part} {xs : List Reg} (effect : Effect s ps xs t) : TracksWrites s t := by
  cases effect with
  | writesReg x b | drawsHostByte x b _ | drawsFreeByte x b | storesKey x b _ => exact setReg_tracksWrites s x b
  | draws _ b _ _ | awaitsDisplay _ b _ => exact setReg_tracksWrites s vf b
  | writesFlag x b c => exact writeResultAndFlag_tracksWrites s x b c
  | loads => exact setRegs_tracksWrites s _
  | writesI w => exact setI_tracksWrites s w
  | writesDt b => exact setDt_tracksWrites s b
  | writesSt b => exact setSt_tracksWrites s b
  | clears | jumps | skips | calls | returns | stores | awaitsKey | quits | skipsOnKey | retries =>
    exact tracksWrites_refl s

/-- Settles O24: every effect of an instruction tracks its writes. -/
theorem writtenBitsTrackWrites : Obligations.WrittenBitsTrackWrites :=
  fun _ _ _ executed => (effect_of_exec executed).tracksWrites

/-! ### Reads (R38) -/

/-- A plain instruction that reads an unreadable element ends with UninitRead of one: by any other end it has read them all. -/
theorem ExecEnds.unwritten_of_unreadable {i : Instr} {o : Result} (ends : ExecEnds i s o) (plain : isKeyQuery i = false)
    (h : ∃ el ∈ readSet i, s.readable el = false) :
    ∃ el ∈ readSet i, s.readable el = false ∧ o = .fault (.uninitRead el s.pc) := by
  obtain ⟨el, mem, unreadable⟩ := h
  have not_read : ¬ HasRead i s := fun reads => by simp [reads plain el mem] at unreadable
  cases ends with
  | completes reads | faults reads | refuses reads => exact absurd reads not_read
  | unwritten mem unreadable => exact ⟨_, mem, unreadable, rfl⟩

theorem readable_of_uninitRead {i : Instr} {el : Element} {pc : Word} (h : exec i s = .fault (.uninitRead el pc)) :
    s.readable el = false := by
  have ends := exec_ends i s
  rw [h] at ends
  cases ends with
  | faults _ kind => exact absurd rfl (kind el pc)
  | unwritten _ unreadable => exact unreadable

theorem keyQuery_of_key {c : KeyCode} {rest : Port KeyAnswer} (h : s.keypad.ask = some (.key c, rest))
    (k : Option KeyCode → State → Result) : keyQuery s k = k (some c) (s.setKeypad rest) := by
  simp [keyQuery, h]

/-- A skip on a key raises UninitRead of its register once it has a key. -/
theorem skipOnKey_unwritten {x : Reg} {c : KeyCode} {rest : Port KeyAnswer} (unreadable : s.readable (.v x) = false)
    (h : s.keypad.ask = some (.key c, rest)) (cond : Option KeyCode → Byte → Bool) :
    skipOnKey cond x s = .fault (.uninitRead (.v x) s.pc) := by
  rw [skipOnKey, keyQuery_of_key h]
  exact need_of_unwritten (s := s.setKeypad rest) unreadable

/-- Settles O23: a plain instruction has read all its elements by any other end, the two skips read their register at the key,
and an element is unreadable under Fault alone. -/
theorem unwrittenReadFaults : Obligations.UnwrittenReadFaults := by
  refine ⟨fun i s => (exec_ends i s).unwritten_of_unreadable, fun x s c rest unreadable key => ?_, readable_eq_false,
    fun i s el pc zero faulted => ?_⟩
  · rw [exec_skp, exec_sknp]
    exact ⟨skipOnKey_unwritten unreadable key _, skipOnKey_unwritten unreadable key _⟩
  · have unreadable := readable_of_uninitRead faulted
    simp [readable_zero s zero] at unreadable

/-! ### Refusals (R27, R211) -/

theorem exec_not_refused {i : Instr} {r : Refusal} (le : s.sp.toNat ≤ 15) : exec i s ≠ .refused r := by
  intro h
  have ends := exec_ends i s
  rw [h] at ends
  cases ends with
  | refuses _ gt => omega

theorem endCycle_not_refused {o : Result} {r : Refusal} (h : o ≠ .refused r) : endCycle o ≠ .refused r := by
  intro ended
  cases o with
  | next u => simp only [endCycle] at ended; split at ended <;> cases ended
  | fault f => cases ended
  | refused q => exact h ended

theorem resumeDraw_not_refused {r : Refusal} : resumeDraw s ≠ .refused r := by
  rcases resumeDraw_cases s with ⟨-, e⟩ | ⟨_, -, e⟩ | ⟨_, _, -, e⟩ <;> rw [e] <;> nofun

theorem step_not_refused {r : Refusal} (le : s.sp.toNat ≤ 15) : step s ≠ .refused r := by
  rcases step_cases s with ⟨-, e⟩ | ⟨-, -, -, e⟩ | ⟨-, -, e⟩ | ⟨-, -, e⟩ <;> rw [e]
  · nofun
  · nofun
  · rcases runInstruction_cases exec (s.setWaiting none) with ⟨-, e⟩ | ⟨-, _, -, ⟨_, -, e⟩ | ⟨_, -, e⟩⟩ <;> rw [e]
    · nofun
    · nofun
    · exact endCycle_not_refused (exec_not_refused le)
  · exact endCycle_not_refused resumeDraw_not_refused

/-- Settles O22: only CALL and RET refuse, with SP above 15 alone. -/
theorem nothingIsRefused : Obligations.NothingIsRefused :=
  ⟨fun _ _ le _ => exec_not_refused le, fun _ le _ => step_not_refused le⟩

/-! A push and a pop, by SP. -/

section Stack
variable {k : State → Result} {k' : Word → State → Result}

theorem pushReturn_of_full (full : s.sp = 15) : pushReturn s k = .fault (.stackOverflow s.pc) := if_pos full

theorem pushReturn_of_room (room : s.sp.toNat < 15) :
    pushReturn s k = k ((s.setSp (s.sp + 1)).setStackEntry (s.sp.toNat + 1) s.pc) := by
  have not_full : s.sp ≠ 15 := fun e => by simp [e] at room
  rw [pushReturn, if_neg not_full, if_pos room]

theorem pushReturn_of_gt (gt : 15 < s.sp.toNat) : pushReturn s k = .refused (.stackPointerOutOfRange s.sp) := by
  have not_full : s.sp ≠ 15 := fun e => by simp [e] at gt
  rw [pushReturn, if_neg not_full, if_neg (by omega)]

theorem popReturn_of_empty (empty : s.sp = 0) : popReturn s k' = .fault (.stackUnderflow s.pc) := if_pos empty

theorem popReturn_of_le (pos : 1 ≤ s.sp.toNat) (le : s.sp.toNat ≤ 15) :
    popReturn s k' = k' (s.stackEntry s.sp.toNat) (s.setSp (s.sp - 1)) := by
  have not_empty : s.sp ≠ 0 := fun e => by simp [e] at pos
  rw [popReturn, if_neg not_empty, if_pos le]

theorem popReturn_of_gt (gt : 15 < s.sp.toNat) : popReturn s k' = .refused (.stackPointerOutOfRange s.sp) := by
  have not_empty : s.sp ≠ 0 := fun e => by simp [e] at gt
  rw [popReturn, if_neg not_empty, if_neg (by omega)]

end Stack

/-- Settles O28: CALL is a push, and RET a pop. -/
theorem stackPointerAboveFifteenRefused : Obligations.StackPointerAboveFifteenRefused :=
  fun nnn s gt =>
    ⟨show execCall nnn s = _ from pushReturn_of_gt gt, show execRet s = _ from popReturn_of_gt gt⟩

end Sys2Proof.Machine
end

section
/-! Creation, the stopped core, and the stop latch (R32, R33, R37, R217): that no instruction depends on the latch is said once
for each shared operation, and then for the 34 instructions. -/

namespace Sys2Proof.Machine

variable {s t : State}

/-- Settles O5: memory lists nothing at creation, so each byte is FONT's or 0, and the registers are those of `CleanRegs`. -/
theorem creationValues : Obligations.CreationValues := by
  refine ⟨rfl, fun p => ⟨fun a => ?_, fun a ge _ => ?_, rfl, cleanRegs_create p, ⟨rfl, rfl⟩, rfl⟩⟩
  · rw [byteAt_create, unlisted_of_lt a.isLt, Vector.get_eq_getElem]
  · rw [byteAt_create, unlisted_of_ge ge]

/-! ### The stopped core (R32) -/

theorem step_of_ended (h : s.Ended) : step s = .next s := by
  rcases step_cases s with ⟨-, e⟩ | ⟨running, -⟩ | ⟨running, -⟩ | ⟨running, -⟩
  · exact e
  · exact absurd running h
  · exact absurd running h
  · exact absurd running h

/-- A stopped core waits for no answer. -/
theorem answerAtHand_of_ended (h : s.Ended) : s.answerAtHand = false := by
  unfold State.answerAtHand
  cases hr : s.run with
  | running => exact absurd hr h
  | stoppedClean | stoppedError => rfl

theorem tick_of_ended (h : s.Ended) : tick s = s := by
  rcases tick_cases s with ⟨-, e⟩ | ⟨waits, -⟩
  · rw [e, step_of_ended h]; rfl
  · rw [step_of_ended h, recordOutcome, answerAtHand_of_ended h] at waits; cases waits

/-- Settles O14, by the values of Run and the first case of a step. -/
theorem stoppedCoreRunsNoCycle : Obligations.StoppedCoreRunsNoCycle := by
  refine ⟨fun s => ?_, fun _ => rfl, fun s h => ⟨step_of_ended h, tick_of_ended h⟩⟩
  cases s.run with
  | running => exact .inl rfl
  | stoppedClean => exact .inr (.inl rfl)
  | stoppedError e => exact .inr (.inr ⟨e, rfl⟩)

/-! ### The stop request and the shared operations (R33)

In each, `k` is the rest of the instruction; where that has read the state, `k'` is the same with the request made. -/

theorem requestStop_of_stopReq (h : s.stopReq = true) : s.requestStop = s := by
  cases s; cases h; rfl

theorem need_requestStop {el : Element} {k k' : Result} (h : k' = mapNext State.requestStop k) :
    need s.requestStop el k' = mapNext State.requestStop (need s el k) := by
  rcases need_cases s el k with ⟨readable, e⟩ | ⟨unreadable, e⟩ <;> rw [e]
  · exact (need_of_readable readable).trans h
  · exact need_of_unwritten unreadable

theorem needRegs_requestStop {rs : List Reg} {k k' : List Byte → Result}
    (h : ∀ bs, k' bs = mapNext State.requestStop (k bs)) :
    needRegs s.requestStop rs k' = mapNext State.requestStop (needRegs s rs k) := by
  induction rs generalizing k k' with
  | nil => exact h []
  | cons r rs ih => exact need_requestStop (ih fun bs => h (s.reg r :: bs))

theorem memRead_requestStop {addr n : Nat} {k k' : List Byte → Result}
    (h : ∀ bs, k' bs = mapNext State.requestStop (k bs)) :
    memRead s.requestStop addr n k' = mapNext State.requestStop (memRead s addr n k) := by
  rcases memRead_cases s addr n k with ⟨fits, e⟩ | ⟨pos, out, e⟩ <;> rw [e]
  · exact (memRead_in_range fits).trans (h _)
  · exact memRead_out_of_range pos out

theorem memWrite_requestStop {addr : Nat} {bs : List Byte} {k : State → Result}
    (h : ∀ t, k t.requestStop = mapNext State.requestStop (k t)) :
    memWrite s.requestStop addr bs k = mapNext State.requestStop (memWrite s addr bs k) := by
  rcases memWrite_cases s addr bs k with ⟨fits, e⟩ | ⟨pos, out, e⟩ <;> rw [e]
  · exact (memWrite_in_range fits).trans (h (s.setMem _))
  · exact memWrite_out_of_range pos out

theorem pushReturn_requestStop {k : State → Result} (h : ∀ t, k t.requestStop = mapNext State.requestStop (k t)) :
    pushReturn s.requestStop k = mapNext State.requestStop (pushReturn s k) := by
  rcases pushReturn_cases s k with ⟨full, e⟩ | ⟨room, e⟩ | ⟨gt, e⟩ <;> rw [e]
  · exact pushReturn_of_full full
  · exact (pushReturn_of_room (s := s.requestStop) room).trans (h ((s.setSp _).setStackEntry _ _))
  · exact pushReturn_of_gt gt

theorem popReturn_requestStop {k : Word → State → Result}
    (h : ∀ a t, k a t.requestStop = mapNext State.requestStop (k a t)) :
    popReturn s.requestStop k = mapNext State.requestStop (popReturn s k) := by
  rcases popReturn_cases s k with ⟨empty, e⟩ | ⟨pos, le, e⟩ | ⟨gt, e⟩ <;> rw [e]
  · exact popReturn_of_empty empty
  · exact (popReturn_of_le (s := s.requestStop) pos le).trans (h _ (s.setSp _))
  · exact popReturn_of_gt gt

theorem keyQuery_requestStop {k : Option KeyCode → State → Result}
    (h : ∀ key t, k key t.requestStop = mapNext State.requestStop (k key t)) :
    keyQuery s.requestStop k = mapNext State.requestStop (keyQuery s k) := by
  unfold keyQuery
  rw [requestStop_keypad]
  rcases s.keypad.ask with _ | ⟨_ | _ | _ | _, rest⟩
  · rfl
  · exact h _ (s.setKeypad rest)
  · rw [requestStop_cfg]
    cases s.cfg.noKey
    · exact h _ (s.setKeypad rest)
    · rfl
  · rfl
  · rfl

theorem render_requestStop {k : State → Result} (h : ∀ t, k t.requestStop = mapNext State.requestStop (k t)) :
    render s.requestStop k = mapNext State.requestStop (render s k) := by
  unfold render
  rw [requestStop_display]
  rcases s.display.ask with _ | ⟨_ | _, rest⟩
  · rfl
  · exact h ((s.emit _).setDisplay rest)
  · rfl

theorem drawByte_requestStop {k k' : Byte → State → Result}
    (h : ∀ r t, k' r t.requestStop = mapNext State.requestStop (k r t)) :
    drawByte s.requestStop k' = mapNext State.requestStop (drawByte s k) := by
  unfold drawByte
  rw [requestStop_random]
  rcases s.random.ask with _ | ⟨r, rest⟩
  · exact h _ s.countDraw
  · exact h r (s.setRandom rest)

theorem writeResultAndFlag_requestStop (s : State) (x : Reg) (b : Byte) (c : Bool) :
    writeResultAndFlag s.requestStop x b c = (writeResultAndFlag s x b c).requestStop := by
  unfold writeResultAndFlag
  split
  · rfl
  · rw [requestStop_cfg]
    cases s.cfg.vfOrder <;> rfl

theorem setRegs_requestStop (s : State) (rbs : List (Reg × Byte)) :
    s.requestStop.setRegs rbs = (s.setRegs rbs).requestStop := by
  induction rbs generalizing s with
  | nil => rfl
  | cons p rest ih => exact ih (s.setReg p.1 p.2)

/-! ### The stop request and the instructions (R33) -/

/-- An update that commutes with the request completes an instruction the same with it. -/
theorem next_advance_requestStop {t' : State} (h : t' = t.requestStop) :
    (.next (t'.advance 2) : Result) = mapNext State.requestStop (.next (t.advance 2)) := by
  rw [h]; rfl

theorem bitwise_requestStop (f : Byte → Byte → Byte) (x y : Reg) (s : State) :
    bitwise f x y s.requestStop = mapNext State.requestStop (bitwise f x y s) :=
  need_requestStop (need_requestStop rfl)

theorem arith_requestStop (f : Byte → Byte → Byte) (g : Byte → Byte → Bool) (x y : Reg) (s : State) :
    arith f g x y s.requestStop = mapNext State.requestStop (arith f g x y s) :=
  need_requestStop (need_requestStop (next_advance_requestStop (writeResultAndFlag_requestStop s x _ _)))

theorem shift_requestStop (f : Byte → Byte) (g : Byte → Bool) (x : Reg) (s : State) :
    shift f g x s.requestStop = mapNext State.requestStop (shift f g x s) :=
  need_requestStop (next_advance_requestStop (writeResultAndFlag_requestStop s x _ _))

theorem skipOnKey_requestStop (c : Option KeyCode → Byte → Bool) (x : Reg) (s : State) :
    skipOnKey c x s.requestStop = mapNext State.requestStop (skipOnKey c x s) :=
  keyQuery_requestStop fun _ _ => need_requestStop rfl

theorem storeKey_requestStop (x : Reg) (key : Option KeyCode) (s : State) :
    storeKey x key s.requestStop = mapNext State.requestStop (storeKey x key s) := by
  cases key <;> rfl

/-- No instruction's execution reads the latch. -/
theorem exec_requestStop (i : Instr) (s : State) : exec i s.requestStop = mapNext State.requestStop (exec i s) :=
  match i with
  | .cls | .jp _ | .ldImm _ _ | .ldI _ => rfl
  | .ret => show execRet s.requestStop = mapNext _ (execRet s) from popReturn_requestStop fun _ _ => rfl
  | .call nnn =>
    show execCall nnn s.requestStop = mapNext _ (execCall nnn s) from pushReturn_requestStop fun _ => rfl
  | .seImm _ _ | .sneImm _ _ | .addImm _ _ | .ldReg _ _ | .jpV0 _ | .ldXDt _ | .ldDtX _ | .ldStX _ | .ldFX _ =>
    need_requestStop rfl
  | .seReg _ _ | .sneReg _ _ | .addIX _ => need_requestStop (need_requestStop rfl)
  | .orReg x y | .andReg x y | .xorReg x y => bitwise_requestStop _ x y s
  | .addReg x y | .sub x y => arith_requestStop _ _ x y s
  | .subn x y => arith_requestStop (fun a b => b - a) (fun a b => noBorrow b a) x y s
  | .shr x _ => shift_requestStop (fun a => a >>> 1) shiftedOutRight x s
  | .shl x _ => shift_requestStop (fun a => a <<< 1) shiftedOutLeft x s
  | .rnd x nn =>
    show execRnd x nn s.requestStop = mapNext _ (execRnd x nn s) from drawByte_requestStop fun _ _ => rfl
  | .drw _ _ _ => need_requestStop (need_requestStop (need_requestStop (memRead_requestStop fun _ =>
      render_requestStop (s := drawSprite s _ _ _) fun _ => rfl)))
  | .skp x => by rw [exec_skp, exec_skp]; exact skipOnKey_requestStop _ x s
  | .sknp x => by rw [exec_sknp, exec_sknp]; exact skipOnKey_requestStop _ x s
  | .ldXK x => keyQuery_requestStop (storeKey_requestStop x)
  | .ldBX _ => need_requestStop (need_requestStop (memWrite_requestStop fun _ => rfl))
  | .ldMemX _ => need_requestStop (needRegs_requestStop fun _ => memWrite_requestStop fun _ => rfl)
  | .ldXMem _ => need_requestStop (memRead_requestStop fun _ =>
      next_advance_requestStop (setRegs_requestStop s _))

/-! ### The latch over a step (R33) -/

theorem exec_keeps_stopReq {i : Instr} (h : exec i s = .next t) : t.stopReq = s.stopReq :=
  (effect_of_exec h).sameBut .stopReq (by cases i <;> simp [mayChange])

theorem endCycle_keeps_stopReq {o : Result} {b : Bool} (h : ∀ u, o = .next u → u.stopReq = b)
    (ended : endCycle o = .next t) : t.stopReq = b := by
  obtain ⟨u, rfl, rfl | rfl⟩ := endCycle_next ended
  · exact (timerDecrement_frame u .stopReq (by decide)).trans (h u rfl)
  · exact h _ rfl

theorem resumeDraw_keeps_stopReq (h : resumeDraw s = .next t) : t.stopReq = s.stopReq := by
  rcases resumeDraw_cases s with ⟨-, e⟩ | ⟨_, -, e⟩ | ⟨_, _, -, e⟩ <;> rw [e] at h <;> cases h <;> rfl

theorem step_keeps_stopReq (h : step s = .next t) : t.stopReq = s.stopReq := by
  rcases step_cases s with ⟨-, e⟩ | ⟨-, -, -, e⟩ | ⟨-, -, e⟩ | ⟨-, -, e⟩ <;> rw [e] at h
  · cases h; rfl
  · cases h; rfl
  · rcases runInstruction_cases exec (s.setWaiting none) with ⟨-, e⟩ | ⟨-, _, -, ⟨_, -, e⟩ | ⟨i, -, e⟩⟩ <;> rw [e] at h
    · cases h
    · cases h
    · exact endCycle_keeps_stopReq (b := (s.setWaiting none).stopReq) (fun _ => exec_keeps_stopReq) h
  · exact endCycle_keeps_stopReq (b := (s.setWaiting none).stopReq) (fun _ => resumeDraw_keeps_stopReq) h

/-- Settles O17: no step has the latch among the parts it changes, and no operation reads it. -/
theorem stopLatchReadOnlyBetweenCycles : Obligations.StopLatchReadOnlyBetweenCycles :=
  ⟨fun _ => rfl, fun s => ⟨rfl, requestStop_frame s⟩, fun _ => requestStop_of_stopReq, fun _ _ => step_keeps_stopReq,
    exec_requestStop⟩

end Sys2Proof.Machine
end

section
/-! Decoding what an instruction encodes to (R54, R71 to R75). -/

namespace Sys2Proof

/-! ### The classes that a second field divides (R75) -/

section Classes
variable {w : Word}

theorem decodeWord_of_class8 (op : Fields.op w = 0x8) : decodeWord w = decodeClass8 w := by simp [decodeWord, op]

theorem decodeWord_of_classE (op : Fields.op w = 0xE) : decodeWord w = decodeClassE w := by simp [decodeWord, op]

theorem decodeWord_of_classF (op : Fields.op w = 0xF) : decodeWord w = decodeClassF w := by simp [decodeWord, op]

end Classes

/-! ### Every instruction, class by class -/

/-- The class is the field w[15:12] of the encoded word, and what the class is divided by is the fixed field of the format; the
operands are the other fields (R72, R74). -/
theorem decodeWord_encode {i : Instr} (wf : WellFormed i) : decodeWord (encode i) = .instr i :=
  match i with
  | .cls | .ret => rfl
  | .jp _ | .call _ | .ldI _ | .jpV0 _ => by simp [encode, decodeWord]
  | .seImm _ _ | .sneImm _ _ | .ldImm _ _ | .addImm _ _ | .rnd _ _ => by simp [encode, decodeWord]
  | .seReg _ _ | .sneReg _ _ => by simp [encode, decodeWord]
  | .ldReg _ _ | .orReg _ _ | .andReg _ _ | .xorReg _ _ | .addReg _ _ | .sub _ _ | .shr _ _ | .subn _ _ | .shl _ _ =>
    (decodeWord_of_class8 (op_encodeReg _ _ _ _)).trans (by simp [decodeClass8])
  | .skp _ | .sknp _ => (decodeWord_of_classE (op_encodeImm _ _ _)).trans (by simp [decodeClassE])
  | .ldXDt _ | .ldXK _ | .ldDtX _ | .ldStX _ | .addIX _ | .ldFX _ | .ldBX _ | .ldMemX _ | .ldXMem _ =>
    (decodeWord_of_classF (op_encodeImm _ _ _)).trans (by simp [decodeClassF])
  | .drw _ _ n => by
    have fits : n ≤ 15 := of_decide_eq_true wf
    have kept : n % 16 = n := Nat.mod_eq_of_lt (by omega)
    simp [encode, decodeWord, kept]

/-- A word in memory order is decoded as the word, whatever bytes follow (R54, R71). -/
theorem decodeBytes_bytesOfWord (w : Word) (rest : List Byte) : decodeBytes (bytesOfWord w ++ rest) = decodeWord w :=
  congrArg decodeWord (wordOfBytes_bytes w)

/-- Settles O1, the word class by class, and its two bytes because they are the word again. -/
theorem decodeInvertsEncode : Obligations.DecodeInvertsEncode := fun i rest wf =>
  ⟨decodeWord_encode wf, (decodeBytes_bytesOfWord (encode i) rest).trans (decodeWord_encode wf)⟩

end Sys2Proof
end

section
/-! The fetch, and the store that it sees (R53, R60, R174). -/

namespace Sys2Proof.Machine

variable {s : State}

/-! ### The fetch (R53) -/

theorem fetch_of_le {k : Word → Result} (le : s.pc.toNat ≤ 0xFFE) : fetch s k = k (wordAtPc s) := by
  rcases fetch_cases s k with ⟨-, e⟩ | ⟨ge, -⟩
  · exact e
  · omega

theorem runInstruction_of_ge {execute : Instr → State → Result} (ge : 0xFFF ≤ s.pc.toNat) :
    runInstruction execute s = .fault (.memoryOutOfRange (firstOutOfRange s.pc.toNat) s.pc) := by
  rcases runInstruction_cases execute s with ⟨-, e⟩ | ⟨le, -⟩
  · exact e
  · omega

/-- Where an instruction is taken, from its start or at its key query, the step runs the one at PC, out of any suspension. -/
theorem step_of_takesInstruction (takes : TakesInstruction s) : step s = runInstruction exec (s.setWaiting none) := by
  obtain ⟨running, fetches⟩ := takes
  rcases step_cases s with ⟨ended, -⟩ | ⟨-, idle, stop, -⟩ | ⟨-, -, e⟩ | ⟨-, drawing, -⟩
  · exact absurd running ended
  · simp [idle, stop] at fetches
  · exact e
  · simp [drawing] at fetches

/-- Settles O11: the word by the fetch, the fault by the step that runs the instruction at PC. -/
theorem fetchReadsTwoBytesOrFaults : Obligations.FetchReadsTwoBytesOrFaults := fun s =>
  ⟨fun le _ => fetch_of_le le, fun takes ge =>
    (step_of_takesInstruction takes).trans (runInstruction_of_ge (s := s.setWaiting none) ge)⟩

/-! ### The block store (R174) -/

/-- V0 to V[x] stored from I: what FX55 makes of memory, by `execLdMemX_of_fits`. -/
def State.storeRegs (s : State) (x : Reg) : State :=
  s.setMem (Memory.writeBytes s.cfg.font s.mem s.i.toNat ((regsUpTo x).map s.reg))

theorem execLdMemX_of_fits {x : Reg} (reads : CanRead (readSet (.ldMemX x)) s) (fits : s.i.toNat + x.val ≤ 0xFFF) :
    exec (.ldMemX x) s = .next ((s.storeRegs x).advance 2) := by
  have read_i : s.readable .i = true := reads .i (by simp [readSet])
  have read_regs : ∀ r ∈ regsUpTo x, s.readable (.v r) = true := fun r mem => reads (.v r) (by simp [readSet, mem])
  have in_range : s.i.toNat + ((regsUpTo x).map s.reg).length ≤ 0x1000 := by
    rw [List.length_map, regsUpTo_length]; omega
  change execLdMemX x s = _
  rw [execLdMemX, needI, need_of_readable read_i, needRegs_of_readable read_regs, memWrite_in_range (.inr in_range)]; rfl

theorem byteAt_storeRegs {x j : Reg} (le : j ≤ x) : (s.storeRegs x).byteAt (s.i.toNat + j.val) = s.reg j := by
  have short : j.val < (regsUpTo x).length := (regsUpTo_length x).symm ▸ Nat.lt_succ_of_le le
  have same : (regsUpTo x)[j.val] = j := Fin.ext (regsUpTo_getElem x j.val short)
  rw [State.storeRegs, byteAt_written (by simpa using short), List.getElem_map, same]

/-- Settles O42: the new PC is I, where the store put V0, with V1 after it. -/
theorem storedWordIsFetchedNext : Obligations.StoredWordIsFetchedNext := by
  intro x s reads one_le next fits
  have pc_is_i : ((s.storeRegs x).advance 2).pc.toNat = s.i.toNat := by
    rw [advance_pc, State.storeRegs, setMem_pc]; bv_omega
  refine ⟨_, execLdMemX_of_fits reads fits, ?_, by omega⟩
  rw [wordAtPc, pc_is_i]
  exact congrArg₂ wordOfBytes (byteAt_storeRegs (Fin.zero_le x)) (byteAt_storeRegs (j := 1) one_le)

end Sys2Proof.Machine
end

section
/-! Every word is one row of the opcode table or unknown (R74 to R78). -/

namespace Sys2Proof

/-! ### A word from its fields (R72, R74) -/

section FromFields
variable {w : Word} {op n : BitVec 4} {nn : Byte}

theorem encodeAddr_of_field (class_eq : Fields.op w = op) : encodeAddr op (Fields.nnn w) = w := by
  subst class_eq
  apply BitVec.eq_of_toNat_eq; rw [encodeAddr_toNat, op_toNat, nnn_toNat]; omega

theorem encodeImm_of_field (class_eq : Fields.op w = op) : encodeImm op (Fields.x w) (Fields.nn w) = w := by
  subst class_eq
  apply BitVec.eq_of_toNat_eq; rw [encodeImm_toNat, op_toNat, x_val, nn_toNat]; omega

theorem encodeImm_of_fields (class_eq : Fields.op w = op) (low_eq : Fields.nn w = nn) :
    encodeImm op (Fields.x w) nn = w := by
  subst low_eq; exact encodeImm_of_field class_eq

theorem encodeReg_of_fields (class_eq : Fields.op w = op) (low_eq : Fields.n w = n) :
    encodeReg op (Fields.x w) (Fields.y w) n = w := by
  subst class_eq low_eq
  apply BitVec.eq_of_toNat_eq; rw [encodeReg_toNat, op_toNat, x_val, y_val, n_toNat]; omega

end FromFields

/-! ### What a word decodes to, class by class (R75) -/

/-- What the decoder may answer for a word: a well-formed instruction that encodes to the word, or the rejection that carries
the whole word. -/
inductive AnswersFor (w : Word) : Decoded → Prop where
  | instr {i : Instr} (wf : WellFormed i) (encodes : encode i = w) : AnswersFor w (.instr i)
  | unknown : AnswersFor w (.rejected (.unknownOpcode w))

section Classes
variable {w : Word}

theorem decodeClass0_answersFor (w : Word) : AnswersFor w (decodeClass0 w) := by
  unfold decodeClass0
  split
  · next is_cls => exact .instr rfl is_cls.symm
  · split
    · next is_ret => exact .instr rfl is_ret.symm
    · exact .unknown

theorem decodeClass8_answersFor (op : Fields.op w = 0x8) : AnswersFor w (decodeClass8 w) := by
  unfold decodeClass8
  split
  iterate 9 next low => exact .instr rfl (encodeReg_of_fields op low)
  exact .unknown

theorem decodeClassE_answersFor (op : Fields.op w = 0xE) : AnswersFor w (decodeClassE w) := by
  unfold decodeClassE
  split
  iterate 2 next low => exact .instr rfl (encodeImm_of_fields op low)
  exact .unknown

theorem decodeClassF_answersFor (op : Fields.op w = 0xF) : AnswersFor w (decodeClassF w) := by
  unfold decodeClassF
  split
  iterate 9 next low => exact .instr rfl (encodeImm_of_fields op low)
  exact .unknown

/-- The classes that the low nibble either makes one instruction or leaves unknown. -/
theorem answersFor_of_low_zero {op : BitVec 4} {i : Instr} (class_eq : Fields.op w = op) (wf : WellFormed i)
    (encodes : encode i = encodeReg op (Fields.x w) (Fields.y w) 0) :
    AnswersFor w (if Fields.n w = 0 then .instr i else .rejected (.unknownOpcode w)) := by
  split
  · next low => exact .instr wf (encodes.trans (encodeReg_of_fields class_eq low))
  · exact .unknown

theorem drw_answersFor (op : Fields.op w = 0xD) :
    AnswersFor w (.instr (.drw (Fields.x w) (Fields.y w) (Fields.n w).toNat)) := by
  have count_le : (Fields.n w).toNat ≤ 15 := by omega
  refine .instr (decide_eq_true count_le) ?_
  rw [encode, BitVec.ofNat_toNat, BitVec.setWidth_eq]
  exact encodeReg_of_fields op rfl

theorem decodeWord_answersFor (w : Word) : AnswersFor w (decodeWord w) := by
  unfold decodeWord
  split
  case h_1 => exact decodeClass0_answersFor w
  case h_2 | h_3 | h_11 | h_12 => exact .instr rfl (encodeAddr_of_field ‹_›)
  case h_4 | h_5 | h_7 | h_8 | h_13 => exact .instr rfl (encodeImm_of_field ‹_›)
  case h_6 | h_10 => exact answersFor_of_low_zero ‹_› rfl rfl
  case h_9 op => exact decodeClass8_answersFor op
  case h_14 op => exact drw_answersFor op
  case h_15 op => exact decodeClassE_answersFor op
  case h_16 =>
    have op : Fields.op w = 0xF := by simp only [imp_false] at *; bv_omega
    exact decodeClassF_answersFor op

end Classes

/-- Settles O2, the decoder's answer class by class. -/
theorem encodeInvertsDecode : Obligations.EncodeInvertsDecode := by
  intro w i decodes
  have answer := decodeWord_answersFor w
  rw [decodes] at answer
  cases answer with
  | instr wf encodes => exact ⟨wf, encodes⟩

end Sys2Proof
end

section
/-! The opcode table and the decoder (R75, R76, R78). -/

namespace Sys2Proof.Machine
open Sys2Proof.Laws

variable {w : Word}

/-! ### The table's fields are those of R72 -/

theorem xOf_eq (w : Word) : xOf w = Fields.x w := Fin.ext (by rw [x_val]; rfl)

theorem yOf_eq (w : Word) : yOf w = Fields.y w := Fin.ext (by rw [y_val]; rfl)

/-! ### A word with a format's fixed bits is the word of its fields (R74) -/

theorem op_of_fixed {op : BitVec 4} (fixed : w &&& 0xF000 = encodeAddr op 0) : Fields.op w = op := by
  rw [← encodeAddr_of_field (w := w) rfl, EncodePattern.addr_pattern] at fixed
  simpa using congrArg Fields.op fixed

theorem encodeAddr_nnnOf (op : BitVec 4) (fixed : w &&& 0xF000 = encodeAddr op 0) : encodeAddr op (nnnOf w) = w :=
  encodeAddr_of_field (op_of_fixed fixed)

theorem encodeImm_nnOf (op : BitVec 4) (fixed : w &&& 0xF000 = encodeAddr op 0) : encodeImm op (xOf w) (nnOf w) = w :=
  xOf_eq w ▸ encodeImm_of_field (op_of_fixed fixed)

theorem encodeImm_xOf (op : BitVec 4) (nn : Byte) (fixed : w &&& 0xF0FF = encodeImm op 0 nn) :
    encodeImm op (xOf w) nn = w := by
  rw [← encodeImm_of_field (w := w) rfl, EncodePattern.ext_pattern] at fixed
  have class_eq : Fields.op w = op := by simpa using congrArg Fields.op fixed
  have low_eq : Fields.nn w = nn := by simpa using congrArg Fields.nn fixed
  exact xOf_eq w ▸ encodeImm_of_fields class_eq low_eq

theorem encodeReg_xOf_yOf (op n : BitVec 4) (fixed : w &&& 0xF00F = encodeReg op 0 0 n) :
    encodeReg op (xOf w) (yOf w) n = w := by
  rw [← encodeReg_of_fields (w := w) rfl rfl, EncodePattern.reg_pattern] at fixed
  have class_eq : Fields.op w = op := by simpa using congrArg Fields.op fixed
  have low_eq : Fields.n w = n := by simpa using congrArg Fields.n fixed
  exact xOf_eq w ▸ yOf_eq w ▸ encodeReg_of_fields class_eq low_eq

theorem encode_drw_nOf (fixed : w &&& 0xF000 = encodeAddr 0xD 0) : encode (.drw (xOf w) (yOf w) (nOf w)) = w := by
  rw [xOf_eq, yOf_eq, nOf, ← n_toNat, encode, BitVec.ofNat_toNat, BitVec.setWidth_eq]
  exact encodeReg_of_fields (op_of_fixed fixed) rfl

theorem eq_of_fixed_all {p : Word} (fixed : w &&& 0xFFFF = p) : p = w := fixed.symm.trans BitVec.and_allOnes

/-! ### The rows of the table -/

/-- Row by row, in the table's order: a word with the row's fixed bits is the word of the row's instruction. -/
theorem encode_of_matches (w : Word) : ∀ r ∈ opcodeTable, r.Matches w → encode (r.instr w) = w := by
  simp only [opcodeTable, List.cons_append, List.nil_append, List.forall_mem_cons]
  exact ⟨eq_of_fixed_all, eq_of_fixed_all, encodeAddr_nnnOf 0x1, encodeAddr_nnnOf 0x2, encodeImm_nnOf 0x3, encodeImm_nnOf 0x4,
    encodeReg_xOf_yOf 0x5 0x0, encodeImm_nnOf 0x6, encodeImm_nnOf 0x7, encodeReg_xOf_yOf 0x8 0x0, encodeReg_xOf_yOf 0x8 0x1,
    encodeReg_xOf_yOf 0x8 0x2, encodeReg_xOf_yOf 0x8 0x3, encodeReg_xOf_yOf 0x8 0x4, encodeReg_xOf_yOf 0x8 0x5,
    encodeReg_xOf_yOf 0x8 0x6, encodeReg_xOf_yOf 0x8 0x7, encodeReg_xOf_yOf 0x8 0xE, encodeReg_xOf_yOf 0x9 0x0,
    encodeAddr_nnnOf 0xA, encodeAddr_nnnOf 0xB, encodeImm_nnOf 0xC, encode_drw_nOf, encodeImm_xOf 0xE 0x9E,
    encodeImm_xOf 0xE 0xA1, encodeImm_xOf 0xF 0x07, encodeImm_xOf 0xF 0x0A, encodeImm_xOf 0xF 0x15, encodeImm_xOf 0xF 0x18,
    encodeImm_xOf 0xF 0x1E, encodeImm_xOf 0xF 0x29, encodeImm_xOf 0xF 0x33, encodeImm_xOf 0xF 0x55, encodeImm_xOf 0xF 0x65,
    List.forall_mem_nil _⟩

/-- Only DXYN's row count is bounded by more than its type, and the table takes it from four bits. -/
theorem wellFormed_of_mem_opcodeTable (w : Word) : ∀ r ∈ opcodeTable, WellFormed (r.instr w) := by
  have count_le : nOf w ≤ 15 := by rw [nOf]; omega
  simp only [opcodeTable, List.cons_append, List.nil_append, List.forall_mem_cons, WellFormed, Instr.wellFormed, count_le,
    decide_true, true_and]
  exact List.forall_mem_nil _

theorem decodeWord_of_matches {r : OpcodeRow} (mem : r ∈ opcodeTable) (fixed : r.Matches w) :
    decodeWord w = .instr (r.instr w) := by
  have decoded := decodeWord_encode (wellFormed_of_mem_opcodeTable w r mem)
  rwa [encode_of_matches w r mem fixed] at decoded

/-- The table is in the order of the instruction's constructors, whatever the word. -/
theorem opcodeTable_ctorIdx (w : Word) : opcodeTable.map (fun r => (r.instr w).ctorIdx) = List.range 34 := rfl

theorem ctorIdx_of_row {r : OpcodeRow} {j : Fin 34} (row : opcodeTable[j.val]? = some r) : (r.instr w).ctorIdx = j.val := by
  have at_j := congrArg (·[j.val]?) (opcodeTable_ctorIdx w)
  simpa [row] using at_j

/-- Two rows that a word matches give one instruction, whose constructor is the place of both. -/
theorem row_unique {j k : Fin 34} {r q : OpcodeRow} (row_j : opcodeTable[j.val]? = some r)
    (row_k : opcodeTable[k.val]? = some q) (fixed_r : r.Matches w) (fixed_q : q.Matches w) : j = k := by
  have same : Decoded.instr (r.instr w) = .instr (q.instr w) :=
    (decodeWord_of_matches (List.mem_of_getElem? row_j) fixed_r).symm.trans
      (decodeWord_of_matches (List.mem_of_getElem? row_k) fixed_q)
  apply Fin.ext
  rw [← ctorIdx_of_row (w := w) row_j, ← ctorIdx_of_row (w := w) row_k, Decoded.instr.inj same]

/-- The fixed bits of the format, for every instruction (R74). -/
theorem encode_fixed : ∀ i : Instr, EncodePattern.Statement i
  | .cls | .ret => rfl
  | .jp _ | .call _ | .ldI _ | .jpV0 _ => EncodePattern.addr_pattern _ _
  | .seImm _ _ | .sneImm _ _ | .ldImm _ _ | .addImm _ _ | .rnd _ _ | .drw _ _ _ => EncodePattern.imm_pattern _ _ _
  | .seReg _ _ | .sneReg _ _ | .ldReg _ _ | .orReg _ _ | .andReg _ _ | .xorReg _ _ | .addReg _ _ | .sub _ _ | .shr _ _
  | .subn _ _ | .shl _ _ => EncodePattern.reg_pattern _ _ _ _
  | .skp _ | .sknp _ | .ldXDt _ | .ldXK _ | .ldDtX _ | .ldStX _ | .addIX _ | .ldFX _ | .ldBX _ | .ldMemX _ | .ldXMem _ =>
    EncodePattern.ext_pattern _ _ _

/-- The mask and the pattern of `EncodePattern.row` stand in the table, at the place of the instruction's constructor. -/
theorem opcodeTable_row (i : Instr) :
    (opcodeTable[i.ctorIdx]?).map (fun r => (r.mask, r.pattern)) = some (EncodePattern.row i) := by
  cases i <;> rfl

theorem exists_row_of_encode (i : Instr) : ∃ r ∈ opcodeTable, r.Matches (encode i) := by
  obtain ⟨r, row, fixed_bits⟩ := Option.map_eq_some_iff.1 (opcodeTable_row i)
  have fixed : encode i &&& r.mask = r.pattern := by
    have := encode_fixed i
    rwa [EncodePattern.Statement, ← fixed_bits] at this
  exact ⟨r, List.mem_of_getElem? row, fixed⟩

theorem decodeWord_of_no_row (none_fits : ∀ r ∈ opcodeTable, ¬ r.Matches w) :
    decodeWord w = .rejected (.unknownOpcode w) := by
  have answer := decodeWord_answersFor w
  generalize decodeWord w = d at answer ⊢
  cases answer with
  | @instr i _ encodes =>
    obtain ⟨r, mem, fixed⟩ := exists_row_of_encode i
    exact absurd (encodes ▸ fixed) (none_fits r mem)
  | unknown => rfl

/-- Settles O3: a row's word is the word of its instruction, one word has one decoding, and what decodes has a row. -/
theorem decodeFollowsOpcodeTable : Obligations.DecodeFollowsOpcodeTable :=
  ⟨fun _ _ => decodeWord_of_matches, fun _ _ _ _ _ => row_unique, fun _ => decodeWord_of_no_row⟩

/-- Settles O4, by running the decoder on the fifteen words. -/
theorem sampleWordsDecode : Obligations.SampleWordsDecode := by
  unfold Obligations.SampleWordsDecode
  decide

/-! ### A word of no row (R76) -/

theorem runInstruction_of_rejected {execute : Instr → State → Result} {s : State} {why : Reject}
    (le : s.pc.toNat ≤ 0xFFE) (rejected : decodeWord (wordAtPc s) = .rejected why) :
    runInstruction execute s = .fault (.unknownOpcode (wordAtPc s) s.pc) := by
  rw [runInstruction, fetch_of_le le, rejected]

/-- Settles O12: the step runs the word at PC, which the decoder rejects. -/
theorem unknownWordFaults : Obligations.UnknownWordFaults := fun s ⟨takes, le⟩ none_fits =>
  (step_of_takesInstruction takes).trans
    (runInstruction_of_rejected (s := s.setWaiting none) le (decodeWord_of_no_row none_fits))

end Sys2Proof.Machine
end

section
/-! The graphics buffer under `writeSprite`: what a run of `set(x, y, b)` calls leaves, by the place of a pixel (R101 to R104). -/

namespace Sys2Proof.Machine

/-! ### What a part of a sprite does to the buffer (R101, R103) -/

/-- A 1 or 0 for each place of the grid: what is drawn there. -/
abbrev Mask := Fin 64 → Fin 32 → Bool

/-- The buffer `d'` is `d` with each pixel XORed with the mask's bit for it, and its flag is that of `d` or a pixel from 1 to 0. -/
structure XorsMask (m : Mask) (d d' : Pixels × Bool) : Prop where
  pixel (px : Fin 64) (py : Fin 32) : Pixels.at d'.1 px.val py.val = (Pixels.at d.1 px.val py.val ^^ m px py)
  collided : d'.2 = true ↔ d.2 = true ∨ ∃ px py, Pixels.at d.1 px.val py.val = true ∧ m px py = true

variable {d d' d'' : Pixels × Bool} {m m' m'' : Mask}

theorem XorsMask.empty (blank : ∀ px py, m px py = false) : XorsMask m d d :=
  ⟨by simp [blank], by simp [blank]⟩

/-- Two parts drawn one after the other: where they do not overlap, the second collides with what was there before both. -/
theorem XorsMask.trans (h : XorsMask m d d') (h' : XorsMask m' d' d'') (disjoint : ∀ px py, m px py = true → m' px py = false)
    (union : ∀ px py, m'' px py = (m px py || m' px py)) : XorsMask m'' d d'' where
  pixel px py := by
    rw [h'.pixel, h.pixel, union, Bool.xor_assoc]
    cases here : m px py
    · simp
    · simp [disjoint px py here]
  collided := by
    have untouched (px : Fin 64) (py : Fin 32) (there : m' px py = true) :
        Pixels.at d'.1 px.val py.val = Pixels.at d.1 px.val py.val := by
      have not_here : m px py = false := by
        cases here : m px py
        · rfl
        · simp [disjoint px py here] at there
      rw [h.pixel, not_here, Bool.xor_false]
    rw [h'.collided, h.collided, or_assoc]
    refine or_congr_right ⟨?_, ?_⟩
    · rintro (⟨px, py, set, here⟩ | ⟨px, py, set, there⟩)
      · exact ⟨px, py, set, by simp [union, here]⟩
      · exact ⟨px, py, untouched px py there ▸ set, by simp [union, there]⟩
    · rintro ⟨px, py, set, either⟩
      rw [union, Bool.or_eq_true] at either
      rcases either with here | there
      · exact .inl ⟨px, py, set, here⟩
      · exact .inr ⟨px, py, (untouched px py there).symm ▸ set, there⟩

theorem setPixel_xorsMask {x y : Nat} {b : Bool} (hx : x < 64) (hy : y < 32) :
    XorsMask (fun px py => decide (px.val = x ∧ py.val = y) && b) d (setPixel d x y b) where
  pixel px py := by
    rw [at_setPixel hx hy]
    split
    · next here => simp [here]
    · next elsewhere => simp [elsewhere]
  collided := by
    rw [setPixel_collided]
    refine or_congr_right ⟨fun ⟨set, one⟩ => ⟨⟨x, hx⟩, ⟨y, hy⟩, set, by simp [one]⟩, ?_⟩
    rintro ⟨px, py, set, here⟩
    simp only [Bool.and_eq_true, decide_eq_true_eq] at here
    obtain ⟨⟨rfl, rfl⟩, one⟩ := here
    exact ⟨set, one⟩

/-! ### The place of a pixel in a sprite (R102) -/

/-- How many places past the start `from` a coordinate lies, around the edge. -/
def placesPast (start size p : Nat) : Nat := (p + size - start) % size

theorem eq_wrapOnce_iff {start size k p : Nat} (hs : start < size) (hk : k < size) (hp : p < size) :
    p = wrapOnce (start + k) size ↔ placesPast start size p = k := by
  unfold wrapOnce placesPast
  rcases Nat.lt_or_ge p start with before | after
  · rw [Nat.mod_eq_of_lt (by omega)]; split <;> omega
  · rw [show p + size - start = p - start + size by omega, Nat.add_mod_right, Nat.mod_eq_of_lt (by omega)]
    split <;> omega

/-! ### A row, and the rows (R102) -/

/-- The first `k` pixels of a row from column `x0` of grid row `y`, bit 7 the leftmost. -/
def rowMask (row : Byte) (x0 y k : Nat) : Mask := fun px py =>
  decide (py.val = y ∧ placesPast x0 64 px.val < k) && row.getLsbD (7 - placesPast x0 64 px.val)

theorem foldl_setPixel_xorsMask {row : Byte} {x0 y k : Nat} (hx : x0 < 64) (hy : y < 32) (hk : k ≤ 8) :
    XorsMask (rowMask row x0 y k) d
      ((List.range k).foldl (fun d c => setPixel d (wrapOnce (x0 + c) 64) y (row.getLsbD (7 - c))) d) := by
  induction k with
  | zero => exact .empty (by simp [rowMask])
  | succ k ih =>
    rw [List.range_succ, List.foldl_append]
    have column (px : Fin 64) : px.val = wrapOnce (x0 + k) 64 ↔ placesPast x0 64 px.val = k :=
      eq_wrapOnce_iff hx (by omega) px.isLt
    refine (ih (by omega)).trans (setPixel_xorsMask (wrapOnce_lt (by omega)) hy) (fun px py here => ?_) fun px py => ?_
    · simp only [rowMask, Bool.and_eq_true, decide_eq_true_eq] at here
      have : px.val ≠ wrapOnce (x0 + k) 64 := by rw [ne_eq, column]; omega
      simp [this]
    · simp only [rowMask, column, Nat.lt_succ_iff_lt_or_eq]
      by_cases last : placesPast x0 64 px.val = k
      · simp [last, and_comm]
      · simp [last]

theorem drawRow_xorsMask {row : Byte} {x0 y : Nat} (hx : x0 < 64) (hy : y < 32) :
    XorsMask (rowMask row x0 y 8) d (drawRow row x0 y d) := foldl_setPixel_xorsMask hx hy le_rfl

/-- The rows of a sprite that starts at column `x0`, row `y0`, the first of them the sprite's row `r`. -/
def rowsMask (rows : List Byte) (x0 y0 r : Nat) : Mask := fun px py =>
  decide (placesPast x0 64 px.val < 8 ∧ r ≤ placesPast y0 32 py.val) &&
    (rows.getD (placesPast y0 32 py.val - r) 0).getLsbD (7 - placesPast x0 64 px.val)

/-- The first of some rows, and the others: row `r` is the grid row that lies `r` past the start. -/
theorem rowsMask_cons {row : Byte} {rows : List Byte} {x0 y0 r : Nat} (hy : y0 < 32) (hr : r < 32) (px : Fin 64) (py : Fin 32) :
    rowsMask (row :: rows) x0 y0 r px py =
      (rowMask row x0 (wrapOnce (y0 + r) 32) 8 px py || rowsMask rows x0 y0 (r + 1) px py) := by
  simp only [rowsMask, rowMask, eq_wrapOnce_iff hy hr py.isLt]
  rcases lt_trichotomy (placesPast y0 32 py.val) r with above | same | below
  · simp [above.ne, above.not_ge, above.le.not_gt]
  · simp [same]
  · have next : placesPast y0 32 py.val - r = placesPast y0 32 py.val - (r + 1) + 1 := by omega
    simp [next, below.ne', below.le, Nat.succ_le_of_lt below]

theorem drawRows_xorsMask {rows : List Byte} {x0 y0 r : Nat} (hx : x0 < 64) (hy : y0 < 32) (hr : r + rows.length ≤ 32) :
    XorsMask (rowsMask rows x0 y0 r) d (drawRows x0 y0 r rows d) := by
  induction rows generalizing r d with
  | nil => exact .empty (by simp [rowsMask])
  | cons row rows ih =>
    rw [List.length_cons] at hr
    refine (drawRow_xorsMask hx (wrapOnce_lt (by omega))).trans (ih (by omega)) (fun px py here => ?_)
      (rowsMask_cons hy (by omega))
    simp only [rowMask, eq_wrapOnce_iff hy (show r < 32 by omega) py.isLt, Bool.and_eq_true, decide_eq_true_eq] at here
    simp [rowsMask, here]

/-- The rows from the first on are the whole sprite, and none of them overlap where there are at most 32. -/
theorem writeSprite_xorsMask {rows : List Byte} (short : rows.length ≤ 32) (vx vy : Byte) (p : Pixels) :
    XorsMask (spriteBit rows vx vy) (p, false) (writeSprite rows vx vy p) := by
  have whole : spriteBit rows vx vy = rowsMask rows (vx.toNat % 64) (vy.toNat % 32) 0 := by
    funext px py; simp [spriteBit, rowsMask, placesPast]
  rw [whole]
  exact drawRows_xorsMask (Nat.mod_lt _ (by decide)) (Nat.mod_lt _ (by decide)) (by omega)

/-- Settles O48: the rows of a sprite do not overlap. -/
theorem writeSpriteXorsEachPixel : Obligations.WriteSpriteXorsEachPixel := by
  intro rows vx vy p short
  have drawn := writeSprite_xorsMask (short.trans (by decide)) vx vy p
  exact ⟨drawn.pixel, drawn.collided.trans (by simp [Collision])⟩

/-! ### The sprite's bits by row and column (R104, R108) -/

/-- The grid coordinate `k` places past a start, around the edge. -/
theorem placesPast_add_mod {start size k : Nat} (hk : k < size) : placesPast (start % size) size ((start + k) % size) = k := by
  have size_pos : 0 < size := by omega
  have wrapped : (start + k) % size = wrapOnce (start % size + k) size := by
    rw [wrapOnce_eq_mod (by have := Nat.mod_lt start size_pos; omega), Nat.mod_add_mod]
  exact (eq_wrapOnce_iff (Nat.mod_lt _ size_pos) hk (Nat.mod_lt _ size_pos)).1 wrapped

/-- Row `r` and column `c` of a sprite, at their place on the grid. -/
theorem spriteBit_at (rows : List Byte) (vx vy : Byte) {c r : Nat} (hc : c < 8) (hr : r < 32) :
    spriteBit rows vx vy (Fin.ofNat 64 (vx.toNat + c)) (Fin.ofNat 32 (vy.toNat + r)) =
      (rows.getD r 0).getLsbD (7 - c) := by
  have column := placesPast_add_mod (start := vx.toNat) (size := 64) (k := c) (by omega)
  have row := placesPast_add_mod (start := vy.toNat) (size := 32) (k := r) hr
  unfold placesPast at column row
  simp [spriteBit, Fin.ofNat, column, row, hc]

/-- A sprite puts a 1 somewhere exactly when some row of it is not 0. -/
theorem exists_spriteBit_iff {rows : List Byte} (short : rows.length ≤ 32) (vx vy : Byte) :
    (∃ px py, spriteBit rows vx vy px py = true) ↔ ∃ row ∈ rows, row ≠ 0 := by
  constructor
  · rintro ⟨px, py, one⟩
    simp only [spriteBit, Bool.and_eq_true] at one
    obtain ⟨-, one⟩ := one
    generalize (py.val + 32 - vy.toNat % 32) % 32 = r at one
    have inside : r < rows.length := by
      by_contra outside
      rw [List.getD_eq_default _ _ (Nat.not_lt.1 outside)] at one
      simp at one
    rw [List.getD_eq_getElem _ _ inside] at one
    refine ⟨rows[r], List.getElem_mem inside, fun zero => ?_⟩
    simp [zero] at one
  · rintro ⟨row, mem, nonzero⟩
    obtain ⟨r, inside, rfl⟩ := List.getElem_of_mem mem
    obtain ⟨i, hi, one⟩ : ∃ i, i < 8 ∧ rows[r].getLsbD i = true := by
      by_contra none
      push Not at none
      exact nonzero (BitVec.eq_of_getLsbD_eq fun i hi => by simpa using none i hi)
    refine ⟨_, _, (spriteBit_at rows vx vy (c := 7 - i) (r := r) (by omega) (by omega)).trans ?_⟩
    rw [List.getD_eq_getElem _ _ inside, show 7 - (7 - i) = i by omega, one]

/-- Settles O50: an XOR undoes itself, and on a clear buffer the first draw leaves the sprite's own bits for the second to turn
off. -/
theorem drawTwiceRestores : Obligations.DrawTwiceRestores := by
  intro rows vx vy p short
  have first := writeSprite_xorsMask (short.trans (by decide)) vx vy p
  have second := writeSprite_xorsMask (short.trans (by decide)) vx vy (writeSprite rows vx vy p).1
  refine ⟨fun px py => by rw [second.pixel, first.pixel, Bool.xor_assoc, Bool.xor_self, Bool.xor_false], fun clear => ?_⟩
  have none_set : (writeSprite rows vx vy p).2 ≠ true := by rw [ne_eq, first.collided]; simp [clear]
  refine ⟨Bool.eq_false_iff.2 none_set, second.collided.trans ?_⟩
  rw [← exists_spriteBit_iff (short.trans (by decide)) vx vy]
  simp [first.pixel, clear]

/-- Settles O51: the columns of the example are those `j` places past 60. -/
theorem spriteWrapsAtSixty : Obligations.SpriteWrapsAtSixty := by
  intro row vy j
  have column : [60, 61, 62, 63, 0, 1, 2, 3].getD j.val 0 = (Fin.ofNat 64 ((60 : Byte).toNat + j.val)).val := by
    revert j; decide
  have drawn := (writeSprite_xorsMask (rows := [row]) (by simp) 60 vy Pixels.blank).pixel
    (Fin.ofNat 64 ((60 : Byte).toNat + j.val)) (Fin.ofNat 32 (vy.toNat + 0))
  rw [spriteBit_at [row] 60 vy j.isLt (by decide), at_blank, Bool.false_xor] at drawn
  rw [column]
  exact drawn

end Sys2Proof.Machine
end

section
/-! 00E0 and DXYN (R100 to R108): the state at DXYN's render request, and how its execution, its step and its tick go on from
there. -/

namespace Sys2Proof.Machine

variable {s : State} {x y : Reg} {n : Nat}

/-- Settles O47: the buffer is the cleared one, and the two updates have their frames. -/
theorem clearScreen : Obligations.ClearScreen :=
  ⟨rfl, fun s => ⟨_, rfl, fun _ _ => at_blank, rfl, sameBut_append (setPix_frame s _) (advance_frame _ 2)⟩⟩

/-! ### The render request (R105, R106, R108) -/

/-- DXYN with its sprite drawn and its request recorded, before any answer. -/
def State.requestDraw (s : State) (x y : Reg) (n : Nat) : State :=
  let drawn := drawSprite s (spriteRows s n) (s.reg x) (s.reg y)
  drawn.emit (.render drawn.pix)

theorem spriteRows_length (s : State) (n : Nat) : (spriteRows s n).length = n := by simp [spriteRows]

theorem requestDraw_drawsSprite (n_le : n ≤ 15) (s : State) (x y : Reg) : DrawsSprite x y n s (s.requestDraw x y n) := by
  have short : (spriteRows s n).length ≤ 15 := (spriteRows_length s n).trans_le n_le
  obtain ⟨pixel, collided⟩ := writeSpriteXorsEachPixel (spriteRows s n) (s.reg x) (s.reg y) s.pix short
  have flag : (s.requestDraw x y n).reg vf = flagByte (writeSprite (spriteRows s n) (s.reg x) (s.reg y) s.pix).2 :=
    reg_setReg_same _ vf _
  refine ⟨pixel, fun collides => ?_, fun apart => ?_, setReg_sameRegsBut (by simp) _ _, fun el => ?_, rfl⟩
  · rw [flag, collided.2 collides]; rfl
  · rw [flag, Bool.eq_false_iff.2 (mt collided.1 apart)]; rfl
  · simp [State.requestDraw, drawSprite]

theorem requestDraw_frame (s : State) (x y : Reg) (n : Nat) :
    SameBut [.pix, .v, .written, .trace] s (s.requestDraw x y n) :=
  sameBut_append (sameBut_append (setPix_frame s _) (setReg_frame _ vf _)) (emit_frame _ _)

/-! ### The execution (R51, R105, R108) -/

/-- With readable operands, DXYN reads its rows at I. -/
theorem execDrw_of_canRead (reads : CanRead [.v x, .v y, .i] s) :
    exec (.drw x y n) s = memRead s s.i.toNat n fun rows => render (drawSprite s rows (s.reg x) (s.reg y)) finishDraw := by
  change execDrw x y n s = _
  rw [execDrw, needReg, need_of_readable (reads _ (by simp)), needReg, need_of_readable (reads _ (by simp)), needI,
    need_of_readable (reads _ (by simp))]

theorem execDrw_of_canDraw (can : CanDraw x y n s) :
    exec (.drw x y n) s = render (drawSprite s (spriteRows s n) (s.reg x) (s.reg y)) finishDraw := by
  obtain ⟨reads, fits⟩ := can
  rw [execDrw_of_canRead reads, memRead_in_range (by omega), spriteRows]

/-- An `Ok` at hand completes the instruction. -/
theorem execDrw_of_ok (can : CanDraw x y n s) {rest : Port DisplayAnswer} (ok : s.display.ask = some (.ok, rest)) :
    exec (.drw x y n) s = .next (((s.requestDraw x y n).setDisplay rest).advance 2) := by
  rcases render_cases (drawSprite s (spriteRows s n) (s.reg x) (s.reg y)) finishDraw with ⟨rest', ok', e⟩ | ⟨not_ok, -⟩
  · obtain rfl : rest' = rest := by simpa [drawSprite, ok] using ok'.symm
    exact (execDrw_of_canDraw can).trans e
  · exact absurd ok (not_ok rest)

/-- Any other answer, and none, leaves the core at its request. -/
theorem execDrw_of_not_ok (can : CanDraw x y n s) (not_ok : ∀ rest, s.display.ask ≠ some (.ok, rest)) :
    exec (.drw x y n) s = .next ((s.requestDraw x y n).setWaiting (some .render)) := by
  rcases render_cases (drawSprite s (spriteRows s n) (s.reg x) (s.reg y)) finishDraw with ⟨rest, ok, -⟩ | ⟨-, e⟩
  · exact absurd ok (not_ok rest)
  · exact (execDrw_of_canDraw can).trans e

/-! ### The answer (R105, R106, R220) -/

section Answer
variable {w : State} (running : w.run = .running) (waits : w.waiting = some .render)
include running waits

theorem step_of_awaiting_render : step w = endCycle (resumeDraw (w.setWaiting none)) := by
  rcases step_cases w with ⟨ended, -⟩ | ⟨-, idle, -⟩ | ⟨-, idle | query, -⟩ | ⟨-, -, e⟩
  · exact absurd running ended
  · simp [waits] at idle
  · simp [waits] at idle
  · simp [waits] at query
  · exact e

theorem step_of_render_unanswered (none : w.display.ask = none) : step w = .next w := by
  have same : (w.setWaiting Option.none).setWaiting (some .render) = w := by cases w; cases waits; rfl
  rcases resumeDraw_cases (w.setWaiting Option.none) with ⟨-, e⟩ | ⟨rest, ok, -⟩ | ⟨err, rest, error, -⟩
  · rw [step_of_awaiting_render running waits, e, same, endCycle, if_neg (by simp [waits])]
  · simp [none] at ok
  · simp [none] at error

theorem step_of_render_ok {rest : Port DisplayAnswer} (ok : w.display.ask = some (.ok, rest)) :
    step w = .next (timerDecrement (((w.setWaiting none).setDisplay rest).advance 2)) := by
  rcases resumeDraw_cases (w.setWaiting none) with ⟨none, -⟩ | ⟨rest', ok', e⟩ | ⟨err, rest', error, -⟩
  · simp [ok] at none
  · obtain rfl : rest' = rest := by simpa [ok] using ok'.symm
    rw [step_of_awaiting_render running waits, e, endCycle, if_pos ⟨running, rfl⟩]
  · simp [ok] at error

theorem step_of_render_error {err : Nat} {rest : Port DisplayAnswer} (error : w.display.ask = some (.error err, rest)) :
    step w = .fault (.displayFailure err w.pc) := by
  rcases resumeDraw_cases (w.setWaiting none) with ⟨none, -⟩ | ⟨rest', ok, -⟩ | ⟨err', rest', error', e⟩
  · simp [error] at none
  · simp [error] at ok
  · obtain ⟨rfl, -⟩ : err' = err ∧ rest' = rest := by simpa [error, eq_comm] using error'
    rw [step_of_awaiting_render running waits, e]; rfl

end Answer

/-- The request has changed neither Run, nor PC, nor the answers. -/
theorem step_of_requestDraw_error (x y : Reg) (n : Nat) (running : s.run = .running) {e : Nat} {rest : Port DisplayAnswer}
    (error : s.display.ask = some (.error e, rest)) :
    step ((s.requestDraw x y n).setWaiting (some .render)) = .fault (.displayFailure e s.pc) :=
  step_of_render_error (w := (s.requestDraw x y n).setWaiting (some .render)) running rfl error

/-! ### The step and the tick (R210, R213) -/

theorem runInstruction_of_instr {execute : Instr → State → Result} {i : Instr} (le : s.pc.toNat ≤ 0xFFE)
    (decodes : decodeWord (wordAtPc s) = .instr i) : runInstruction execute s = endCycle (execute i s) := by
  rw [runInstruction, fetch_of_le le, decodes]

/-- A decoded row count comes from a 4-bit field (R72). -/
theorem rows_le_of_decodes {w : Word} (decodes : decodeWord w = .instr (.drw x y n)) : n ≤ 15 :=
  of_decide_eq_true (encodeInvertsDecode w _ decodes).1

theorem endCycle_of_waiting {t : State} (waits : t.waiting ≠ none) : endCycle (.next t) = .next t :=
  if_neg fun ⟨_, idle⟩ => waits idle

/-- Where DXYN has no `Ok` at hand, its step ends at the request, with the waiting mark. -/
theorem step_of_drw_not_ok (about : AboutToRun s (.drw x y n)) (can : CanDraw x y n s)
    (not_ok : ∀ rest, s.display.ask ≠ some (.ok, rest)) :
    step s = .next ((s.requestDraw x y n).setWaiting (some .render)) := by
  obtain ⟨⟨takes, fetched⟩, decodes⟩ := about
  have executed := execDrw_of_not_ok (s := s.setWaiting none) can not_ok
  calc step s
      = runInstruction exec (s.setWaiting none) := step_of_takesInstruction takes
    _ = endCycle (exec (.drw x y n) (s.setWaiting none)) := runInstruction_of_instr (s := s.setWaiting none) fetched decodes
    _ = .next ((s.requestDraw x y n).setWaiting (some .render)) := by rw [executed, endCycle_of_waiting (by simp)]; rfl

/-- An `Error` at hand is taken in the same tick, after the request (log 12). -/
theorem tick_of_drw_error (about : AboutToRun s (.drw x y n)) (can : CanDraw x y n s) {e : Nat} {rest : Port DisplayAnswer}
    (error : s.display.ask = some (.error e, rest)) :
    tick s = ((s.requestDraw x y n).setWaiting (some .render)).setRun (.stoppedError (.displayFailure e s.pc)) := by
  have running : s.run = .running := about.1.1.1
  have asked := step_of_drw_not_ok about can (by simp [error])
  have at_hand : ((s.requestDraw x y n).setWaiting (some .render)).answerAtHand = true := by
    simp [State.answerAtHand, State.requestDraw, drawSprite, running, error]
  have answered := step_of_requestDraw_error x y n running error
  rcases tick_cases s with ⟨none_at_hand, -⟩ | ⟨-, taken⟩
  · rw [asked, recordOutcome, at_hand] at none_at_hand; cases none_at_hand
  · rw [taken, asked, recordOutcome, answered, recordOutcome]

/-- Settles O52: the step of DXYN up to its request, and the three answers to one that waits. -/
theorem drawAwaitsDisplay : Obligations.DrawAwaitsDisplay := by
  refine ⟨fun x y n s about can unanswered => ?_, fun w running waits =>
    ⟨step_of_render_unanswered running waits, fun rest ok => ?_, fun _ _ => step_of_render_error running waits⟩⟩
  · exact ⟨_, step_of_drw_not_ok about can (by simp [unanswered]), requestDraw_drawsSprite (rows_le_of_decodes about.2) s x y,
      rfl, sameBut_mono (sameBut_append (requestDraw_frame s x y n) (setWaiting_frame _ _)) (by decide)⟩
  · have frame := sameBut_append (sameBut_append (setWaiting_frame w none) (setDisplay_frame _ rest)) (advance_frame _ 2)
    exact ⟨_, step_of_render_ok running waits ok, rfl, rfl, rfl, sameBut_mono frame (by decide)⟩

/-- Settles O53, by the state the tick leaves. -/
theorem failedRenderIsRecorded : Obligations.FailedRenderIsRecorded := by
  intro x y n s e rest about can error
  obtain ⟨pixel, -⟩ := requestDraw_drawsSprite (rows_le_of_decodes about.2) s x y
  rw [tick_of_drw_error about can error]
  exact ⟨rfl, _, rfl, pixel⟩

end Sys2Proof.Machine

namespace Sys2Proof.Machine.Graphics

/-- Settles O49 (in a namespace of its own beside the model's `drawSprite`): the request is the same whatever the answer, which
`Ok` completes and `Error` leaves to the next step. -/
theorem drawSprite : Obligations.DrawSprite := by
  intro x y n s n_le
  refine ⟨decodeWord_encode (i := .drw x y n) (decide_eq_true n_le), fun can =>
    ⟨fun rest ok => ?_, fun e rest error running => ?_⟩, fun reads pos beyond => ?_⟩
  · have frame := sameBut_append (sameBut_append (requestDraw_frame s x y n) (setDisplay_frame _ rest)) (advance_frame _ 2)
    exact ⟨_, execDrw_of_ok can ok, requestDraw_drawsSprite n_le s x y, rfl, rfl, sameBut_mono frame (by decide)⟩
  · have frame := sameBut_append (requestDraw_frame s x y n) (setWaiting_frame _ (some .render))
    exact ⟨_, execDrw_of_not_ok can (by simp [error]), requestDraw_drawsSprite n_le s x y, rfl,
      sameBut_mono frame (by decide), step_of_requestDraw_error x y n running error⟩
  · rw [execDrw_of_canRead reads, memRead_out_of_range pos (by omega), firstOutOfRange]

end Sys2Proof.Machine.Graphics
end

section
/-! Control transfer (R121 to R129): the jumps, the call and its return, and the skips. -/

namespace Sys2Proof.Machine

/-! ### The jumps (R122, R128) -/

/-- BNNN's target is the sum itself: 0xFFF + 0xFF fits the 16 bits of PC. -/
theorem addrOf_add_zext16_toNat (nnn : BitVec 12) (b : Byte) :
    (addrOf nnn + zext16 b).toNat = nnn.toNat + b.toNat := by
  rw [BitVec.toNat_add, addrOf_toNat, zext16_toNat]; omega

/-- Settles O25: both jumps set PC alone, BNNN after the read of V0. -/
theorem jumpsSetPc : Obligations.JumpsSetPc := fun nnn s =>
  ⟨⟨decodeWord_encode (i := .jp nnn) rfl, _, rfl, addrOf_toNat nnn, setPc_frame s _⟩,
    decodeWord_encode (i := .jpV0 nnn) rfl,
    fun reads => ⟨_, need_of_readable (reads _ (by simp)), addrOf_add_zext16_toNat nnn (s.reg 0), setPc_frame s _⟩⟩

/-! ### The call and its return (R121, R123, R129) -/

theorem exec_call (nnn : BitVec 12) (s : State) :
    exec (.call nnn) s = pushReturn s fun t => .next (t.setPc (addrOf nnn)) := rfl

theorem exec_ret (s : State) : exec .ret s = popReturn s fun a t => .next (t.setPc (a + 2)) := rfl

/-- Settles O26: the call is a push, and the push of an address writes one stack entry. -/
theorem callPushesOwnAddress : Obligations.CallPushesOwnAddress := by
  refine fun nnn s => ⟨decodeWord_encode (i := .call nnn) rfl, fun full => (exec_call nnn s).trans (pushReturn_of_full full),
    fun room => ?_⟩
  have executed : exec (.call nnn) s =
      .next (((s.setSp (s.sp + 1)).setStackEntry (s.sp.toNat + 1) s.pc).setPc (addrOf nnn)) :=
    (exec_call nnn s).trans (pushReturn_of_room room)
  have entry (k : Nat) := stackEntry_setStackEntry (s.setSp (s.sp + 1)) (s.sp.toNat + 1) k s.pc (by omega)
  refine ⟨_, executed, ?_, (entry _).trans (if_pos rfl), fun j other => (entry _).trans (if_neg other), addrOf_toNat nnn,
    (onlyNamedPartsChange _ _ _ executed).1⟩
  simp only [setPc_sp, setStackEntry_sp, setSp_sp]
  bv_omega

/-- Settles O27: the return is a pop, and the pop writes no stack entry. -/
theorem returnPopsEntry : Obligations.ReturnPopsEntry := by
  refine ⟨rfl, fun s => ⟨fun empty => (exec_ret s).trans (popReturn_of_empty empty), fun pos le => ?_⟩⟩
  have executed : exec .ret s = .next ((s.setSp (s.sp - 1)).setPc (s.stackEntry s.sp.toNat + 2)) :=
    (exec_ret s).trans (popReturn_of_le pos le)
  refine ⟨_, executed, rfl, ?_, (onlyNamedPartsChange _ _ _ executed).1⟩
  simp only [setPc_sp, setSp_sp]
  bv_omega

/-- Settles O29: the entry the return pops is the one the call pushed. -/
theorem callThenReturnResumes : Obligations.CallThenReturnResumes := by
  intro nnn s t u room called same_sp same_entry
  obtain ⟨-, -, completes⟩ := callPushesOwnAddress nnn s
  obtain ⟨t', called', sp_after, pushed, -⟩ := completes room
  obtain rfl : t' = t := Host.Outcome.next.inj (called'.symm.trans called)
  have u_sp : u.sp.toNat = s.sp.toNat + 1 := by rw [same_sp, sp_after]
  obtain ⟨-, pops⟩ := returnPopsEntry.2 u
  obtain ⟨r, returned, r_pc, r_sp, -⟩ := pops (by omega) (by omega)
  refine ⟨r, returned, ?_, BitVec.eq_of_toNat_eq (by omega)⟩
  rw [r_pc, u_sp, same_entry, pushed]

/-! ### The skips (R124 to R127) -/

theorem exec_seImm (x : Reg) (nn : Byte) (s : State) :
    exec (.seImm x nn) s = needReg s x fun a => .next (s.skipIf (a == nn)) := rfl

theorem exec_sneImm (x : Reg) (nn : Byte) (s : State) :
    exec (.sneImm x nn) s = needReg s x fun a => .next (s.skipIf (a != nn)) := rfl

theorem exec_seReg (x y : Reg) (s : State) :
    exec (.seReg x y) s = needReg s x fun a => needReg s y fun b => .next (s.skipIf (a == b)) := rfl

theorem exec_sneReg (x y : Reg) (s : State) :
    exec (.sneReg x y) s = needReg s x fun a => needReg s y fun b => .next (s.skipIf (a != b)) := rfl

theorem skipIf_skips (s : State) {b : Bool} {c : Prop} (decides : b = true ↔ c) : Skips c s (s.skipIf b) := by
  refine ⟨fun holds => ?_, fun fails => ?_, skipIf_frame s b⟩
  · rw [decides.2 holds]; rfl
  · rw [Bool.eq_false_iff.2 (mt decides.1 fails)]; rfl

/-- Settles O30: after the read of V[X], each is a skip on its comparison. -/
theorem skipsOnImmediate : Obligations.SkipsOnImmediate := by
  refine fun x nn s => ⟨decodeWord_encode (i := .seImm x nn) rfl, decodeWord_encode (i := .sneImm x nn) rfl,
    fun reads => ?_⟩
  have read {k : Byte → Result} : needReg s x k = k (s.reg x) := need_of_readable (reads _ (by simp))
  exact ⟨⟨_, (exec_seImm x nn s).trans read, skipIf_skips s beq_iff_eq⟩,
    _, (exec_sneImm x nn s).trans read, skipIf_skips s bne_iff_ne⟩

/-! The classes 5 and 9 hold the instruction of N = 0 alone (R75). -/

theorem decodeWord_class5 (x y : Reg) (n : BitVec 4) : decodeWord (encodeReg 0x5 x y n) =
    if n = 0 then .instr (.seReg x y) else .rejected (.unknownOpcode (encodeReg 0x5 x y n)) := by
  simp [decodeWord]

theorem decodeWord_class9 (x y : Reg) (n : BitVec 4) : decodeWord (encodeReg 0x9 x y n) =
    if n = 0 then .instr (.sneReg x y) else .rejected (.unknownOpcode (encodeReg 0x9 x y n)) := by
  simp [decodeWord]

/-- Settles O31: after the reads of V[X] and V[Y], each is a skip on its comparison. -/
theorem skipsOnRegisters : Obligations.SkipsOnRegisters := by
  refine fun x y s => ⟨⟨(decodeWord_class5 x y 0).trans (if_pos rfl), (decodeWord_class9 x y 0).trans (if_pos rfl)⟩,
    fun n ne => ⟨(decodeWord_class5 x y n).trans (if_neg ne), (decodeWord_class9 x y n).trans (if_neg ne)⟩,
    fun reads => ?_⟩
  have read {k : Byte → Byte → Result} : (needReg s x fun a => needReg s y (k a)) = k (s.reg x) (s.reg y) :=
    (need_of_readable (reads _ (by simp))).trans (need_of_readable (reads _ (by simp)))
  exact ⟨⟨_, (exec_seReg x y s).trans read, skipIf_skips s beq_iff_eq⟩,
    _, (exec_sneReg x y s).trans read, skipIf_skips s bne_iff_ne⟩

end Sys2Proof.Machine
end

section
/-! Register loads and the ALU (R140 to R154): the two shapes in which they write, the flags and results by arithmetic, and the
random byte. -/

namespace Sys2Proof.Machine

variable {s : State} {x y : Reg}

/-! ### The updates (R140, R141) -/

/-- One register write and PC past the instruction. -/
theorem setReg_writesReg (s : State) (x : Reg) (b : Byte) : WritesReg x b s ((s.setReg x b).advance 2) :=
  ⟨reg_setReg_same s x b, setReg_sameRegsBut (by simp) s b, fun el => by simp, rfl, advance_after (setReg_frame s x b) _⟩

/-- The written bits of V[X] and VF, which are one bit where X = F. -/
theorem writeResultAndFlag_marks (s : State) (x : Reg) (result : Byte) (flag : Bool) :
    Marks [.v x, .v vf] s (writeResultAndFlag s x result flag) := by
  intro el
  rcases writeResultAndFlag_cases s x result flag with ⟨-, e⟩ | ⟨rfl, -, e⟩ | ⟨rfl, -, e⟩ | ⟨rfl, -, e⟩ <;> rw [e]
  · by_cases of_flag : el = .v vf <;> simp [of_flag]
  · simp
  · simp
  · simp

/-- The flag pair of R141 and PC past the instruction. -/
theorem writeResultAndFlag_writesResultAndFlag (s : State) (x : Reg) (result : Byte) (flag : Bool) :
    WritesResultAndFlag x result (flagByte flag) s ((writeResultAndFlag s x result flag).advance 2) := by
  have frame := writeResultAndFlag_frame s x result flag
  have pc : (writeResultAndFlag s x result flag).pc = s.pc := frame .pc (by simp)
  refine ⟨fun apart => ?_, fun same wins => ?_, fun same wins => ?_, writeResultAndFlag_sameRegsBut s x result flag,
    writeResultAndFlag_marks s x result flag, congrArg (· + 2) pc, sameBut_mono (advance_after frame _) (by decide)⟩
  · rw [writeResultAndFlag, if_pos apart]
    exact ⟨(reg_setReg_other _ _ apart).trans (reg_setReg_same s x result), reg_setReg_same _ vf _, rfl⟩
  · rw [writeResultAndFlag, if_neg (not_not_intro same), wins]
    exact ⟨reg_setReg_same s vf _, rfl⟩
  · rw [writeResultAndFlag, if_neg (not_not_intro same), wins]
    exact ⟨reg_setReg_same s vf _, rfl⟩

/-! ### The shapes of an execution: what each completes with, its operands readable (R38) -/

theorem needReg_of_canRead {k : Byte → Result} (reads : CanRead [.v x] s) : needReg s x k = k (s.reg x) :=
  need_of_readable (reads _ (by simp))

theorem needReg_needReg_of_canRead {k : Byte → Byte → Result} (reads : CanRead [.v x, .v y] s) :
    (needReg s x fun a => needReg s y (k a)) = k (s.reg x) (s.reg y) :=
  (need_of_readable (reads _ (by simp))).trans (need_of_readable (reads _ (by simp)))

theorem bitwise_completes {f : Byte → Byte → Byte} {op : Bool → Bool → Bool} (reads : CanRead [.v x, .v y] s)
    (bits : ∀ (a b : Byte) (j : Nat), (f a b).getLsbD j = op (a.getLsbD j) (b.getLsbD j)) :
    ∃ t b, bitwise f x y s = .next t ∧ WritesReg x b s t ∧
      ∀ j < 8, b.getLsbD j = op ((s.reg x).getLsbD j) ((s.reg y).getLsbD j) :=
  ⟨_, _, needReg_needReg_of_canRead reads, setReg_writesReg s x _, fun j _ => bits _ _ j⟩

theorem arith_completes {result : Byte → Byte → Byte} {flag : Byte → Byte → Bool} {r c : Byte}
    (reads : CanRead [.v x, .v y] s) (result_eq : result (s.reg x) (s.reg y) = r)
    (flag_eq : flagByte (flag (s.reg x) (s.reg y)) = c) :
    ∃ t, arith result flag x y s = .next t ∧ WritesResultAndFlag x r c s t := by
  subst result_eq flag_eq
  exact ⟨_, needReg_needReg_of_canRead reads, writeResultAndFlag_writesResultAndFlag s x _ _⟩

theorem shift_completes {result : Byte → Byte} {flag : Byte → Bool} {r c : Byte} (reads : CanRead [.v x] s)
    (result_eq : result (s.reg x) = r) (flag_eq : flagByte (flag (s.reg x)) = c) :
    ∃ t, shift result flag x s = .next t ∧ WritesResultAndFlag x r c s t := by
  subst result_eq flag_eq
  exact ⟨_, needReg_of_canRead reads, writeResultAndFlag_writesResultAndFlag s x _ _⟩

/-! ### Results and flags by arithmetic (R142) -/

theorem flagByte_decide (p : Prop) [Decidable p] : flagByte (decide p) = if p then 1 else 0 := by simp [flagByte]

theorem flagByte_carryOut (a b : Byte) : flagByte (carryOut a b) = if 255 < a.toNat + b.toNat then 1 else 0 :=
  flagByte_decide _

theorem flagByte_noBorrow (a b : Byte) : flagByte (noBorrow a b) = if a.toNat > b.toNat then 1 else 0 :=
  flagByte_decide _

theorem flagByte_getLsbD (a : Byte) (j : Nat) : flagByte (a.getLsbD j) = BitVec.ofNat 8 (a.toNat / 2 ^ j % 2) := by
  rw [BitVec.getLsbD, Nat.testBit_eq_decide_div_mod_eq, flagByte_decide]
  rcases Nat.mod_two_eq_zero_or_one (a.toNat / 2 ^ j) with bit | bit <;> rw [bit] <;> rfl

theorem flagByte_shiftedOutRight (a : Byte) : flagByte (shiftedOutRight a) = BitVec.ofNat 8 (a.toNat % 2) := by
  rw [shiftedOutRight, flagByte_getLsbD, pow_zero, Nat.div_one]

theorem flagByte_shiftedOutLeft (a : Byte) : flagByte (shiftedOutLeft a) = BitVec.ofNat 8 (a.toNat / 128) := by
  have top : a.toNat / 2 ^ 7 % 2 = a.toNat / 128 := by omega
  rw [shiftedOutLeft, flagByte_getLsbD, top]

theorem add_eq_ofNat (a b : Byte) : a + b = BitVec.ofNat 8 (a.toNat + b.toNat) := by bv_omega

theorem sub_eq_ofNat (a b : Byte) : a - b = BitVec.ofNat 8 (a.toNat + 256 - b.toNat) := by bv_omega

theorem shiftRight_one_eq_ofNat (a : Byte) : a >>> 1 = BitVec.ofNat 8 (a.toNat / 2) := by
  apply BitVec.eq_of_toNat_eq; simp; omega

theorem shiftLeft_one_eq_ofNat (a : Byte) : a <<< 1 = BitVec.ofNat 8 (a.toNat * 2) := by
  apply BitVec.eq_of_toNat_eq; simp [Nat.shiftLeft_eq]

/-! ### The instructions -/

theorem exec_ldImm (x : Reg) (nn : Byte) (s : State) : exec (.ldImm x nn) s = .next ((s.setReg x nn).advance 2) := rfl

theorem exec_addImm (x : Reg) (nn : Byte) (s : State) :
    exec (.addImm x nn) s = needReg s x fun a => .next ((s.setReg x (a + nn)).advance 2) := rfl

theorem exec_ldReg (x y : Reg) (s : State) :
    exec (.ldReg x y) s = needReg s y fun b => .next ((s.setReg x b).advance 2) := rfl

theorem exec_orReg (x y : Reg) (s : State) : exec (.orReg x y) s = bitwise (fun a b => a ||| b) x y s := rfl

theorem exec_andReg (x y : Reg) (s : State) : exec (.andReg x y) s = bitwise (fun a b => a &&& b) x y s := rfl

theorem exec_xorReg (x y : Reg) (s : State) : exec (.xorReg x y) s = bitwise (fun a b => a ^^^ b) x y s := rfl

theorem exec_addReg (x y : Reg) (s : State) : exec (.addReg x y) s = arith (fun a b => a + b) carryOut x y s := rfl

theorem exec_sub (x y : Reg) (s : State) : exec (.sub x y) s = arith (fun a b => a - b) noBorrow x y s := rfl

theorem exec_subn (x y : Reg) (s : State) :
    exec (.subn x y) s = arith (fun a b => b - a) (fun a b => noBorrow b a) x y s := rfl

theorem exec_shr (x y : Reg) (s : State) : exec (.shr x y) s = shift (fun a => a >>> 1) shiftedOutRight x s := rfl

theorem exec_shl (x y : Reg) (s : State) : exec (.shl x y) s = shift (fun a => a <<< 1) shiftedOutLeft x s := rfl

theorem exec_rnd (x : Reg) (nn : Byte) (s : State) : exec (.rnd x nn) s =
    drawByte s fun r t => .next ((t.setReg x (combineRandom s.cfg.randCombine r nn)).advance 2) := rfl

/-- Settles O34: the flag pair of the sum and its carry. -/
theorem addSetsCarry : Obligations.AddSetsCarry := fun x y s =>
  ⟨decodeWord_encode (i := .addReg x y) rfl, fun reads => exec_addReg x y s ▸
    arith_completes reads (add_eq_ofNat _ _) (flagByte_carryOut _ _)⟩

/-- Settles O35: the flag pairs of the two differences. -/
theorem subtractSetsNoBorrow : Obligations.SubtractSetsNoBorrow := fun x y s =>
  ⟨decodeWord_encode (i := .sub x y) rfl, decodeWord_encode (i := .subn x y) rfl, fun reads =>
    ⟨exec_sub x y s ▸ arith_completes reads (sub_eq_ofNat _ _) (flagByte_noBorrow _ _),
      exec_subn x y s ▸ arith_completes reads (sub_eq_ofNat _ _) (flagByte_noBorrow _ _)⟩⟩

/-- Settles O36: the flag pairs of the two shifts, which read V[X] alone. -/
theorem shiftsSetLostBit : Obligations.ShiftsSetLostBit := fun x y s =>
  ⟨decodeWord_encode (i := .shr x y) rfl, decodeWord_encode (i := .shl x y) rfl, fun reads =>
    ⟨exec_shr x y s ▸ shift_completes reads (shiftRight_one_eq_ofNat _) (flagByte_shiftedOutRight _),
      exec_shl x y s ▸ shift_completes reads (shiftLeft_one_eq_ofNat _) (flagByte_shiftedOutLeft _)⟩⟩

/-- Settles O32: one register write each, 7XNN after the read of V[X]. -/
theorem immediateLoadAndAdd : Obligations.ImmediateLoadAndAdd := by
  refine fun x nn s => ⟨decodeWord_encode (i := .ldImm x nn) rfl, decodeWord_encode (i := .addImm x nn) rfl,
    ⟨_, exec_ldImm x nn s, setReg_writesReg s x nn⟩, fun reads => ?_⟩
  have sum : BitVec.ofNat 8 (((s.reg x).toNat + nn.toNat) % 256) = s.reg x + nn := by bv_omega
  rw [sum]
  exact ⟨_, (exec_addImm x nn s).trans (needReg_of_canRead reads), setReg_writesReg s x _⟩

/-- Settles O33: one register write each, of the byte moved or of the two combined. -/
theorem moveAndBitwise : Obligations.MoveAndBitwise := fun x y s =>
  ⟨⟨decodeWord_encode (i := .ldReg x y) rfl, decodeWord_encode (i := .orReg x y) rfl,
      decodeWord_encode (i := .andReg x y) rfl, decodeWord_encode (i := .xorReg x y) rfl⟩,
    fun reads => ⟨_, (exec_ldReg x y s).trans (needReg_of_canRead reads), setReg_writesReg s x _⟩,
    fun reads => ⟨exec_orReg x y s ▸ bitwise_completes (op := or) reads fun _ _ _ => BitVec.getLsbD_or,
      exec_andReg x y s ▸ bitwise_completes (op := and) reads fun _ _ _ => BitVec.getLsbD_and,
      exec_xorReg x y s ▸ bitwise_completes (op := xor) reads fun _ _ _ => BitVec.getLsbD_xor⟩⟩

/-! ### The random byte (R154) -/

/-- The combined byte, written after a draw that has changed the port and the counter alone. -/
theorem combineRandom_after_draw {u t : State} (drawn : SameBut [.random, .draws] s u) (x : Reg) (r nn : Byte)
    (written : t = (u.setReg x (combineRandom s.cfg.randCombine r nn)).advance 2) :
    (s.cfg.randCombine = .add → t.reg x = BitVec.ofNat 8 (r.toNat + nn.toNat)) ∧
    (s.cfg.randCombine = .and → t.reg x = r &&& nn) ∧
    SameRegsBut [x] s t ∧ Marks [.v x] s t ∧ t.pc = s.pc + 2 ∧ SameBut [.v, .written, .pc, .random, .draws] s t := by
  obtain ⟨value, regs, marks, pc, frame⟩ := setReg_writesReg u x (combineRandom s.cfg.randCombine r nn)
  rw [← written] at value regs marks pc frame
  have same_regs : ∀ y : Reg, u.reg y = s.reg y := drawn .v (by simp)
  have same_written : ∀ el : Element, u.written.has el = s.written.has el := drawn .written (by simp)
  have same_pc : u.pc = s.pc := drawn .pc (by simp)
  refine ⟨fun adds => ?_, fun ands => ?_, fun y other => (regs y other).trans (same_regs y),
    fun el => same_written el ▸ marks el, same_pc ▸ pc, sameBut_mono (sameBut_append drawn frame) (by decide)⟩
  · rw [value, adds, combineRandom, add_eq_ofNat]
  · rw [value, ands, combineRandom]

/-- Settles O37: the draw is the host's byte or a free value, and one register write follows it. -/
theorem randomCombines : Obligations.RandomCombines := by
  refine fun x nn s => ⟨decodeWord_encode (i := .rnd x nn) rfl, ?_⟩
  rcases drawByte_cases s fun r t => .next ((t.setReg x (combineRandom s.cfg.randCombine r nn)).advance 2) with
    ⟨r, rest, host, e⟩ | ⟨unanswered, e⟩
  · have drawn : SameBut [.random, .draws] s (s.setRandom rest) := sameBut_mono (setRandom_frame s rest) (by decide)
    refine ⟨_, r, (exec_rnd x nn s).trans e, fun b rest' host' => ?_, fun unanswered => ?_,
      combineRandom_after_draw drawn x r nn rfl⟩
    · obtain ⟨rfl, rfl⟩ : r = b ∧ rest = rest' := by simpa [host] using host'
      exact ⟨rfl, rfl, rfl⟩
    · simp [host] at unanswered
  · have drawn : SameBut [.random, .draws] s s.countDraw := sameBut_mono (countDraw_frame s) (by decide)
    refine ⟨_, _, (exec_rnd x nn s).trans e, fun b rest host => ?_, fun _ => rfl,
      combineRandom_after_draw drawn x _ nn rfl⟩
    simp [unanswered] at host

end Sys2Proof.Machine
end

section
/-! The index register and the memory transfer (R170 to R175): the write of I, the store that FX33 and FX55 share, and the load
of a block of registers. -/

namespace Sys2Proof.Machine

variable {s : State} {x : Reg}

/-! ### The stores (R173, R174) -/

/-- What a store at `addr` leaves unchanged, PC past the instruction. -/
theorem store_keeps (s : State) (addr : Nat) (bs : List Byte) {t : State}
    (stored : t = (s.setMem (Memory.writeBytes s.cfg.font s.mem addr bs)).advance 2) :
    SameMemoryBut addr bs.length s t ∧ t.pc = s.pc + 2 ∧ SameBut [.mem, .pc] s t := by
  subst stored
  exact ⟨fun _ => byteAt_not_written, rfl, advance_after (setMem_frame s _) _⟩

theorem exec_ldBX (x : Reg) (s : State) : exec (.ldBX x) s =
    needReg s x fun a => needI s fun i => memWrite s i.toNat (bcdDigits a) fun t => .next (t.advance 2) := rfl

theorem exec_ldMemX (x : Reg) (s : State) : exec (.ldMemX x) s =
    needI s fun i => needRegs s (regsUpTo x) fun bs => memWrite s i.toNat bs fun t => .next (t.advance 2) := rfl

theorem execLdBX_of_canRead (reads : CanRead [.v x, .i] s) :
    exec (.ldBX x) s = memWrite s s.i.toNat (bcdDigits (s.reg x)) fun t => .next (t.advance 2) := by
  rw [exec_ldBX, needReg, need_of_readable (reads _ (by simp)), needI, need_of_readable (reads _ (by simp))]

/-- A digit fits a byte (R173). -/
theorem toNat_ofNat_of_le_toNat {b : Byte} {d : Nat} (le : d ≤ b.toNat) : (BitVec.ofNat 8 d).toNat = d :=
  Nat.mod_eq_of_lt (le.trans_lt b.isLt)

/-- Settles O39: after the reads of V[X] and I, one store of the three digits, in range or not. -/
theorem bcdIsStored : Obligations.BcdIsStored := by
  refine fun x s => ⟨decodeWord_encode (i := .ldBX x) rfl, fun reads => ⟨fun fits => ?_, fun out => ?_⟩⟩
  · have digit (k : Nat) (short : k < 3) := byteAt_written (s := s) (addr := s.i.toNat) (v := bcdDigits (s.reg x)) short
    exact ⟨_, (execLdBX_of_canRead reads).trans (memWrite_in_range (.inr (Nat.succ_le_succ fits))),
      (congrArg BitVec.toNat (digit 0 (by decide))).trans (toNat_ofNat_of_le_toNat (Nat.div_le_self _ _)),
      (congrArg BitVec.toNat (digit 1 (by decide))).trans
        (toNat_ofNat_of_le_toNat ((Nat.mod_le _ _).trans (Nat.div_le_self _ _))),
      (congrArg BitVec.toNat (digit 2 (by decide))).trans (toNat_ofNat_of_le_toNat (Nat.mod_le _ _)),
      store_keeps s s.i.toNat (bcdDigits (s.reg x)) rfl⟩
  · exact (execLdBX_of_canRead reads).trans (memWrite_out_of_range (Nat.zero_lt_succ _) (Nat.succ_lt_succ out))

theorem execLdMemX_of_out_of_range (reads : CanRead (readSet (.ldMemX x)) s) (out : 0xFFF < s.i.toNat + x.val) :
    exec (.ldMemX x) s = .fault (.memoryOutOfRange (firstOutOfRange s.i.toNat) s.pc) := by
  have read_i : s.readable .i = true := reads .i (by simp [readSet])
  have read_regs : ∀ r ∈ regsUpTo x, s.readable (.v r) = true := fun r mem => reads (.v r) (by simp [readSet, mem])
  have length : ((regsUpTo x).map s.reg).length = x.val + 1 := by rw [List.length_map, regsUpTo_length]
  rw [exec_ldMemX, needI, need_of_readable read_i, needRegs_of_readable read_regs]
  exact memWrite_out_of_range (by omega) (by omega)

/-- Settles O40: after the reads of I and the block, one store of the block, in range or not. -/
theorem blockStore : Obligations.BlockStore := by
  refine fun x s => ⟨decodeWord_encode (i := .ldMemX x) rfl, fun reads => ⟨fun fits => ?_,
    execLdMemX_of_out_of_range reads⟩⟩
  obtain ⟨memory, pc, frame⟩ := store_keeps s s.i.toNat ((regsUpTo x).map s.reg) rfl
  rw [List.length_map, regsUpTo_length] at memory
  exact ⟨_, execLdMemX_of_fits reads fits, fun j le => byteAt_storeRegs le, memory, pc, frame⟩

/-! ### The block load (R175) -/

/-- The list may repeat a number: its byte is then written again. -/
theorem reg_setRegs_map (f : Reg → Byte) (s : State) (rs : List Reg) (y : Reg) :
    (s.setRegs (rs.map fun r => (r, f r))).reg y = if y ∈ rs then f y else s.reg y := by
  induction rs generalizing s with
  | nil => rfl
  | cons r rs ih =>
    rw [List.map_cons, State.setRegs, ih, reg_setReg]
    by_cases later : y ∈ rs
    · simp [later]
    · by_cases now : y = r <;> simp [now, later]

theorem setRegs_marks (s : State) (rbs : List (Reg × Byte)) : Marks (rbs.map fun p => .v p.1) s (s.setRegs rbs) := by
  induction rbs generalizing s with
  | nil => exact fun _ => rfl
  | cons p rest ih =>
    intro el
    rw [State.setRegs, ih, setReg_written, has_mark]
    by_cases now : el = .v p.1 <;> simp [now]

theorem regsUpTo_map_val : ∀ x : Reg, (regsUpTo x).map Fin.val = List.range (x.val + 1) := by decide

/-- V0 to V[x] loaded from I: what FX65 makes of the registers, by `execLdXMem_of_fits`. -/
def State.loadRegs (s : State) (x : Reg) : State :=
  s.setRegs ((regsUpTo x).map fun r => (r, s.byteAt (s.i.toNat + r.val)))

theorem reg_loadRegs (s : State) (x y : Reg) :
    (s.loadRegs x).reg y = if y ≤ x then s.byteAt (s.i.toNat + y.val) else s.reg y := by
  simp only [State.loadRegs, reg_setRegs_map, mem_regsUpTo]

theorem loadRegs_marks (s : State) (x : Reg) : Marks ((regsUpTo x).map .v) s (s.loadRegs x) := by
  have marks := setRegs_marks s ((regsUpTo x).map fun r => (r, s.byteAt (s.i.toNat + r.val)))
  rwa [List.map_map] at marks

theorem exec_ldXMem (x : Reg) (s : State) : exec (.ldXMem x) s =
    needI s fun i => memRead s i.toNat (x.val + 1) fun bs => .next ((s.setRegs ((regsUpTo x).zip bs)).advance 2) := rfl

theorem execLdXMem_of_canRead (reads : CanRead [.i] s) :
    exec (.ldXMem x) s = memRead s s.i.toNat (x.val + 1) fun bs =>
      .next ((s.setRegs ((regsUpTo x).zip bs)).advance 2) := by
  rw [exec_ldXMem, needI, need_of_readable (reads _ (by simp))]

theorem execLdXMem_of_fits (reads : CanRead [.i] s) (fits : s.i.toNat + x.val ≤ 0xFFF) :
    exec (.ldXMem x) s = .next ((s.loadRegs x).advance 2) := by
  rw [execLdXMem_of_canRead reads, memRead_in_range (.inr (Nat.succ_le_succ fits)), ← regsUpTo_map_val, List.map_map,
    State.loadRegs, List.map_prod_left_eq_zip]
  rfl

/-- Settles O41: after the read of I, one read of the bytes, in range or not, and then their writes to the block. -/
theorem blockLoad : Obligations.BlockLoad := by
  refine fun x s => ⟨decodeWord_encode (i := .ldXMem x) rfl, fun reads => ⟨fun fits => ?_, fun out => ?_⟩⟩
  · have frame : SameBut [.v, .written] s (s.loadRegs x) := setRegs_frame s _
    have pc : (s.loadRegs x).pc = s.pc := frame .pc (by simp)
    exact ⟨_, execLdXMem_of_fits reads fits, fun j le => (reg_loadRegs s x j).trans (if_pos le),
      fun j above => (reg_loadRegs s x j).trans (if_neg (not_le_of_gt above)), loadRegs_marks s x,
      congrArg (· + 2) pc, advance_after frame _⟩
  · exact (execLdXMem_of_canRead reads).trans (memRead_out_of_range (Nat.succ_pos _) (Nat.succ_lt_succ out))

/-! ### The index register (R170 to R172) -/

theorem setI_writesI (s : State) (w : Word) : WritesI w s ((s.setI w).advance 2) :=
  ⟨rfl, fun el => by simp, rfl, advance_after (setI_frame s w) _⟩

theorem add_zext16_eq_ofNat (w : Word) (b : Byte) : w + zext16 b = BitVec.ofNat 16 ((w.toNat + b.toNat) % 65536) := by
  apply BitVec.eq_of_toNat_eq
  rw [BitVec.toNat_add, zext16_toNat, BitVec.toNat_ofNat, Nat.mod_mod]

theorem zext16_mul_five_eq_ofNat (b : Byte) : zext16 b * 5 = BitVec.ofNat 16 (5 * b.toNat) := by
  apply BitVec.eq_of_toNat_eq
  rw [BitVec.toNat_mul, zext16_toNat, BitVec.toNat_ofNat, Nat.mul_comm]; rfl

theorem exec_ldI (nnn : BitVec 12) (s : State) : exec (.ldI nnn) s = .next ((s.setI (addrOf nnn)).advance 2) := rfl

theorem exec_addIX (x : Reg) (s : State) : exec (.addIX x) s =
    needI s fun i => needReg s x fun a => .next ((s.setI (i + zext16 a)).advance 2) := rfl

theorem exec_ldFX (x : Reg) (s : State) :
    exec (.ldFX x) s = needReg s x fun a => .next ((s.setI (zext16 a * 5)).advance 2) := rfl

theorem execAddIX_of_canRead (reads : CanRead [.v x, .i] s) :
    exec (.addIX x) s = .next ((s.setI (s.i + zext16 (s.reg x))).advance 2) := by
  rw [exec_addIX, needI, need_of_readable (reads _ (by simp)), needReg, need_of_readable (reads _ (by simp))]

/-- Settles O38: after its reads, each is one write of I. -/
theorem indexIsSet : Obligations.IndexIsSet := by
  refine fun nnn x s => ⟨⟨decodeWord_encode (i := .ldI nnn) rfl, decodeWord_encode (i := .addIX x) rfl,
    decodeWord_encode (i := .ldFX x) rfl⟩, ?_, fun reads => ?_, fun reads => ?_⟩
  · rw [BitVec.ofNat_toNat]
    exact ⟨_, exec_ldI nnn s, setI_writesI s _⟩
  · rw [← add_zext16_eq_ofNat]
    exact ⟨_, execAddIX_of_canRead reads, setI_writesI s _⟩
  · rw [← zext16_mul_five_eq_ofNat]
    exact ⟨_, (exec_ldFX x s).trans (needReg_of_canRead reads), setI_writesI s _⟩

end Sys2Proof.Machine
end

section
/-! Keypad and timers (R190 to R196): the timer decrement part by part (R223), the step that runs an instruction, the key
query by its answers, and the six instructions. -/

namespace Sys2Proof.Machine

variable {s t : State}

/-! ### The timer decrement (R223, R224) -/

theorem lowered_toNat {b : Byte} (ne : b ≠ 0) : (b - 1).toNat = b.toNat - 1 := by bv_omega

theorem delayTick_writes (s : State) : ∃ d, delayTick s = { s with dt := d } := by
  rcases delayTick_cases s with ⟨-, -, e⟩ | ⟨-, e⟩ <;> exact ⟨_, e⟩

theorem delayTick_dt (readable : s.readable .dt = true) : (delayTick s).dt.toNat = s.dt.toNat - 1 := by
  rcases delayTick_cases s with ⟨-, ne, e⟩ | ⟨unreadable | zero, e⟩ <;> rw [e]
  · exact lowered_toNat ne
  · simp [readable] at unreadable
  · rw [zero]; rfl

theorem soundTick_dt (s : State) : (soundTick s).dt = s.dt := by
  rcases soundTick_cases s with ⟨-, -, e⟩ | ⟨-, -, -, e⟩ | ⟨-, e⟩ <;> rw [e] <;> rfl

theorem soundTick_st (readable : s.readable .st = true) : (soundTick s).st.toNat = s.st.toNat - 1 := by
  rcases soundTick_cases s with ⟨-, one, e⟩ | ⟨-, ne, -, e⟩ | ⟨unreadable | zero, e⟩ <;> rw [e]
  · exact lowered_toNat (by simp [one])
  · exact lowered_toNat ne
  · simp [readable] at unreadable
  · rw [zero]; rfl

theorem soundTick_trace (s : State) :
    (soundTick s).trace = if s.readable .st = true ∧ s.st = 1 then .cue :: s.trace else s.trace := by
  rcases soundTick_cases s with ⟨readable, one, e⟩ | ⟨-, -, ne, e⟩ | ⟨unreadable | zero, e⟩ <;> rw [e]
  · exact (if_pos ⟨readable, one⟩).symm
  · exact (if_neg fun ⟨_, one⟩ => ne one).symm
  · exact (if_neg fun ⟨readable, _⟩ => by simp [readable] at unreadable).symm
  · exact (if_neg fun ⟨_, one⟩ => by simp [zero] at one).symm

theorem timerDecrement_dt (readable : s.readable .dt = true) : (timerDecrement s).dt.toNat = s.dt.toNat - 1 := by
  rw [timerDecrement, soundTick_dt, delayTick_dt readable]

theorem timerDecrement_st (readable : s.readable .st = true) : (timerDecrement s).st.toNat = s.st.toNat - 1 := by
  obtain ⟨d, e⟩ := delayTick_writes s
  rw [timerDecrement, e]
  exact soundTick_st (s := { s with dt := d }) readable

theorem timerDecrement_trace (s : State) :
    (timerDecrement s).trace = if s.readable .st = true ∧ s.st = 1 then .cue :: s.trace else s.trace := by
  obtain ⟨d, e⟩ := delayTick_writes s
  rw [timerDecrement, e]
  exact soundTick_trace { s with dt := d }

/-! ### Readable elements after a write (R38) -/

theorem readable_of_has {el : Element} (written : s.written.has el = true) : s.readable el = true := by
  rw [← Bool.not_eq_false, readable_eq_false]
  exact fun ⟨_, unwritten⟩ => by simp [written] at unwritten

/-- Written bits stay, so what was readable is. -/
theorem TracksWrites.readable (tracks : TracksWrites s t) (cfg : t.cfg = s.cfg) {el : Element}
    (before : s.readable el = true) : t.readable el = true := by
  obtain ⟨stays, -⟩ := tracks
  rw [← Bool.not_eq_false, readable_eq_false] at before ⊢
  exact fun ⟨policy, unwritten⟩ =>
    before ⟨cfg ▸ policy, Bool.eq_false_iff.2 fun written => by simp [stays el written] at unwritten⟩

/-! ### The step that runs an instruction (R210) -/

theorem endCycle_of_active (active : Active t) : endCycle (.next t) = .next (timerDecrement t) := if_pos active

theorem step_of_aboutToRun {i : Instr} (about : AboutToRun s i) : step s = endCycle (exec i (s.setWaiting none)) := by
  obtain ⟨⟨takes, fetched⟩, decodes⟩ := about
  exact (step_of_takesInstruction takes).trans (runInstruction_of_instr (s := s.setWaiting none) fetched decodes)

/-- Success and Retry: the step is the instruction and the timer decrement. -/
theorem step_of_completes {i : Instr} (about : AboutToRun s i) (executed : exec i (s.setWaiting none) = .next t)
    (active : Active t) : step s = .next (timerDecrement t) := by
  rw [step_of_aboutToRun about, executed, endCycle_of_active active]

/-- The word at PC is kept with memory and PC. -/
theorem wordAtPc_of_sameBut {ps : List Part} (frame : SameBut ps s t) (pc : .pc ∉ ps) (mem : .mem ∉ ps) :
    wordAtPc t = wordAtPc s := by
  have same_pc : t.pc = s.pc := frame .pc pc
  have same_mem : ∀ a, t.byteAt a = s.byteAt a := frame .mem mem
  rw [wordAtPc, wordAtPc, same_pc, same_mem, same_mem]

/-! ### The key query by its answers (R190, R218, R219) -/

section Query
variable {k : Option KeyCode → State → Result} {rest : Port KeyAnswer}

theorem keyQuery_of_none (h : s.keypad.ask = none) : keyQuery s k = .next (s.setWaiting (some .getKey)) := by
  simp [keyQuery, h, awaitHost]

theorem keyQuery_of_noKey (h : s.keypad.ask = some (.noKey, rest)) (policy : s.cfg.noKey = .noPress) :
    keyQuery s k = k none (s.setKeypad rest) := by
  simp [keyQuery, h, policy]

theorem keyQuery_of_noKey_failure (h : s.keypad.ask = some (.noKey, rest)) (policy : s.cfg.noKey = .failure) :
    keyQuery s k = .fault (.keypadFailure .noKey s.pc) := by
  simp [keyQuery, h, policy]

theorem keyQuery_of_quit (h : s.keypad.ask = some (.quit, rest)) :
    keyQuery s k = .next ((s.setKeypad rest).setRun .stoppedClean) := by
  simp [keyQuery, h]

theorem keyQuery_of_error {e : Nat} (h : s.keypad.ask = some (.error e, rest)) :
    keyQuery s k = .fault (.keypadFailure (.host e) s.pc) := by
  simp [keyQuery, h]

/-- An instruction that begins with a key query ends there on the answers that do not continue it. -/
theorem keyQueryStops_of_queries {i : Instr} (queries : exec i s = keyQuery s k) : KeyQueryStops i s rest :=
  ⟨fun _ error => queries.trans (keyQuery_of_error error),
    fun noKey policy => queries.trans (keyQuery_of_noKey_failure noKey policy),
    fun quit => ⟨_, queries.trans (keyQuery_of_quit quit), rfl, rfl,
      sameBut_mono (sameBut_append (setKeypad_frame s rest) (setRun_frame _ _)) (by decide)⟩⟩

end Query

theorem exec_ldXK (x : Reg) (s : State) : exec (.ldXK x) s = keyQuery s (storeKey x) := rfl

/-- Every key instruction begins with its query. -/
theorem exec_of_isKeyQuery {i : Instr} (query : isKeyQuery i = true) :
    ∃ k : Option KeyCode → State → Result, ∀ s, exec i s = keyQuery s k := by
  cases i with
  | skp x => exact ⟨_, exec_skp x⟩
  | sknp x => exact ⟨_, exec_sknp x⟩
  | ldXK x => exact ⟨_, exec_ldXK x⟩
  | _ => cases query

/-! ### The skips (R191, R192) -/

/-- A query that goes on, with a key or with none, leaves a skip on the condition, and the answer taken. -/
theorem skipOnKey_skips {c : Option KeyCode → Byte → Bool} {x : Reg} {key : Option KeyCode} {rest : Port KeyAnswer}
    {holds : Prop} (reads : CanRead [.v x] s) (goesOn : ∀ k, keyQuery s k = k key (s.setKeypad rest))
    (decides : c key (s.reg x) = true ↔ holds) :
    ∃ t, skipOnKey c x s = .next (t.setKeypad rest) ∧ Skips holds s t :=
  ⟨_, (goesOn _).trans (needReg_of_canRead (s := s.setKeypad rest) reads), skipIf_skips s decides⟩

theorem keyMatches_some (k : KeyCode) (a : Byte) : keyMatches (some k) a = true ↔ k.val = a.toNat := beq_iff_eq

theorem not_keyMatches_some (k : KeyCode) (a : Byte) : (!keyMatches (some k) a) = true ↔ k.val ≠ a.toNat := bne_iff_ne

theorem keyMatches_none (a : Byte) : keyMatches none a = false := rfl

/-- Settles O43: both are skips on the queried key, and stop at their query on the other answers. -/
theorem skipsOnKey : Obligations.SkipsOnKey := by
  refine fun x s rest => ⟨⟨decodeWord_encode (i := .skp x) rfl, decodeWord_encode (i := .sknp x) rfl⟩,
    fun reads => ⟨fun k key => ?_, fun noKey policy => ?_⟩,
    keyQueryStops_of_queries (exec_skp x s), keyQueryStops_of_queries (exec_sknp x s)⟩
  · exact ⟨skipOnKey_skips reads (keyQuery_of_key key) (keyMatches_some k _),
      skipOnKey_skips reads (keyQuery_of_key key) (not_keyMatches_some k _)⟩
  · exact ⟨skipOnKey_skips reads (fun _ => keyQuery_of_noKey noKey policy) (by simp [keyMatches_none]),
      skipOnKey_skips reads (fun _ => keyQuery_of_noKey noKey policy) (by simp [keyMatches_none])⟩

/-! ### FX0A (R193) -/

theorem execLdXK_of_key {x : Reg} {c : KeyCode} {rest : Port KeyAnswer} (h : s.keypad.ask = some (.key c, rest)) :
    exec (.ldXK x) s = .next (((s.setReg x (BitVec.ofNat 8 c.val)).advance 2).setKeypad rest) := keyQuery_of_key h _

theorem execLdXK_of_noKey {x : Reg} {rest : Port KeyAnswer} (h : s.keypad.ask = some (.noKey, rest))
    (policy : s.cfg.noKey = .noPress) : exec (.ldXK x) s = .next (s.setKeypad rest) := keyQuery_of_noKey h policy

/-- What FX0A's retry leaves over its whole cycle: the answer taken, no wait, and the timers decremented. -/
def State.retryKey (s : State) (rest : Port KeyAnswer) : State := timerDecrement ((s.setWaiting none).setKeypad rest)

theorem step_of_ldXK_noKey {x : Reg} {rest : Port KeyAnswer} (about : AboutToRun s (.ldXK x))
    (noKey : s.keypad.ask = some (.noKey, rest)) (policy : s.cfg.noKey = .noPress) :
    step s = .next (s.retryKey rest) :=
  step_of_completes about (execLdXK_of_noKey (s := s.setWaiting none) noKey policy) ⟨about.1.1.1, rfl⟩

theorem retryKey_frame (s : State) (rest : Port KeyAnswer) :
    SameBut [.keypad, .waiting, .dt, .st, .trace] s (s.retryKey rest) :=
  sameBut_mono (sameBut_append (sameBut_append (setWaiting_frame s none) (setKeypad_frame _ rest))
    (timerDecrement_frame _)) (by decide)

theorem retryKey_keypad (s : State) (rest : Port KeyAnswer) : (s.retryKey rest).keypad = rest :=
  timerDecrement_frame ((s.setWaiting none).setKeypad rest) .keypad (by decide)

theorem retryKey_waiting (s : State) (rest : Port KeyAnswer) : (s.retryKey rest).waiting = none :=
  timerDecrement_frame ((s.setWaiting none).setKeypad rest) .waiting (by decide)

/-- A retry leaves PC and memory as they were, so the next step runs the same instruction. -/
theorem retryKey_aboutToRun {i : Instr} (about : AboutToRun s i) (idle : s.stopReq = false) (rest : Port KeyAnswer) :
    AboutToRun (s.retryKey rest) i := by
  have frame := retryKey_frame s rest
  obtain ⟨⟨⟨running, -⟩, fetched⟩, decodes⟩ := about
  have run : (s.retryKey rest).run = s.run := frame .run (by decide)
  have stopReq : (s.retryKey rest).stopReq = s.stopReq := frame .stopReq (by decide)
  have pc : (s.retryKey rest).pc = s.pc := frame .pc (by decide)
  have word := wordAtPc_of_sameBut frame (by decide) (by decide)
  exact ⟨⟨⟨run.trans running, .inl ⟨retryKey_waiting s rest, stopReq.trans idle⟩⟩, pc ▸ fetched⟩, word ▸ decodes⟩

/-- Settles O44: one register write on a key, and without one a cycle that leaves only the timers and the answer changed. -/
theorem keyWaitWritesKey : Obligations.KeyWaitWritesKey := by
  refine fun x s rest => ⟨decodeWord_encode (i := .ldXK x) rfl,
    fun k key => ⟨_, execLdXK_of_key key, setReg_writesReg s x _⟩, fun noKey policy =>
    ⟨⟨_, execLdXK_of_noKey noKey policy, rfl, setKeypad_frame s rest⟩, fun about => ?_⟩,
    keyQueryStops_of_queries (exec_ldXK x s)⟩
  exact ⟨_, step_of_ldXK_noKey about noKey policy, retryKey_keypad s rest, retryKey_waiting s rest,
    fun readable => timerDecrement_dt readable, fun readable => timerDecrement_st readable, retryKey_frame s rest,
    fun idle => retryKey_aboutToRun about idle rest⟩

/-! ### The stop request over a step (R216) -/

theorem timerDecrement_requestStop (s : State) : timerDecrement s.requestStop = (timerDecrement s).requestStop := by
  have delay : delayTick s.requestStop = (delayTick s).requestStop := by
    simp only [delayTick, apply_ite State.requestStop]; rfl
  have sound (t : State) : soundTick t.requestStop = (soundTick t).requestStop := by
    simp only [soundTick, apply_ite State.requestStop]; rfl
  rw [timerDecrement, delay, sound, timerDecrement]

theorem endCycle_requestStop (o : Result) :
    endCycle (mapNext State.requestStop o) = mapNext State.requestStop (endCycle o) := by
  cases o with
  | next t =>
    simp only [endCycle, mapNext, requestStop_run, requestStop_waiting, timerDecrement_requestStop]
    split <;> rfl
  | fault f => rfl
  | refused r => rfl

/-- Fetch, decode and execute do not read the latch. -/
theorem runInstruction_requestStop (s : State) :
    runInstruction exec s.requestStop = mapNext State.requestStop (runInstruction exec s) := by
  rcases runInstruction_cases exec s with ⟨ge, e⟩ | ⟨le, _, rfl, ⟨_, rejected, e⟩ | ⟨i, decodes, e⟩⟩ <;> rw [e]
  · exact runInstruction_of_ge (s := s.requestStop) ge
  · exact runInstruction_of_rejected (s := s.requestStop) le rejected
  · rw [runInstruction_of_instr (s := s.requestStop) le decodes, exec_requestStop, endCycle_requestStop]

/-! ### The wait for a key (R190, R232) -/

theorem step_of_key_unanswered {i : Instr} (about : AboutToRun s i) (query : isKeyQuery i = true)
    (unanswered : s.keypad.ask = none) : step s = .next (s.setWaiting (some .getKey)) := by
  obtain ⟨k, queries⟩ := exec_of_isKeyQuery query
  rw [step_of_aboutToRun about, queries, keyQuery_of_none (s := s.setWaiting none) unanswered,
    endCycle_of_waiting (by simp)]
  rfl

/-- Taken up at its unanswered key query, an instruction runs as it does from its start. -/
theorem step_of_awaiting_key (takes : TakesInstruction s) : step (s.setWaiting (some .getKey)) = step s := by
  have resumes : TakesInstruction (s.setWaiting (some .getKey)) := ⟨takes.1, .inr rfl⟩
  rw [step_of_takesInstruction resumes, step_of_takesInstruction takes]; rfl

/-- Settles O19: the wait changes the mark alone, and the step that takes the answer runs the instruction at PC out of the
wait, without a look at the latch. -/
theorem keyWaitEndsWithTheAnswer : Obligations.KeyWaitEndsWithTheAnswer := by
  intro s i about query unanswered
  have takes (a : KeyAnswer) : TakesInstruction (s.answerKey a) := about.1.1
  refine ⟨_, step_of_key_unanswered about query unanswered, rfl, setWaiting_frame s _,
    fun a => step_of_awaiting_key (takes a), fun a _ => ?_⟩
  have resumes : TakesInstruction (((s.setWaiting (some .getKey)).requestStop).answerKey a) := ⟨about.1.1.1, .inr rfl⟩
  rw [step_of_takesInstruction resumes, step_of_takesInstruction (takes a)]
  exact runInstruction_requestStop ((s.answerKey a).setWaiting none)

/-! ### The moves between V[X] and the timers (R194 to R196) -/

theorem exec_ldXDt (x : Reg) (s : State) :
    exec (.ldXDt x) s = needDt s fun d => .next ((s.setReg x d).advance 2) := rfl

theorem exec_ldDtX (x : Reg) (s : State) :
    exec (.ldDtX x) s = needReg s x fun a => .next ((s.setDt a).advance 2) := rfl

theorem exec_ldStX (x : Reg) (s : State) :
    exec (.ldStX x) s = needReg s x fun a => .next ((s.setSt a).advance 2) := rfl

section Moves
variable {x : Reg}

theorem execLdXDt_of_canRead (reads : CanRead [.dt] s) : exec (.ldXDt x) s = .next ((s.setReg x s.dt).advance 2) :=
  (exec_ldXDt x s).trans (need_of_readable (reads _ (by simp)))

theorem execLdDtX_of_canRead (reads : CanRead [.v x] s) : exec (.ldDtX x) s = .next ((s.setDt (s.reg x)).advance 2) :=
  (exec_ldDtX x s).trans (needReg_of_canRead reads)

theorem execLdStX_of_canRead (reads : CanRead [.v x] s) : exec (.ldStX x) s = .next ((s.setSt (s.reg x)).advance 2) :=
  (exec_ldStX x s).trans (needReg_of_canRead reads)

/-- FX07 reads DT before the decrement of its own cycle. -/
theorem step_of_ldXDt (about : AboutToRun s (.ldXDt x)) (reads : CanRead [.dt] s) :
    ∃ u, step s = .next u ∧ u.reg x = s.dt ∧ u.dt.toNat = s.dt.toNat - 1 := by
  have executed := execLdXDt_of_canRead (s := s.setWaiting none) (x := x) reads
  have readable := (effect_of_exec executed).tracksWrites.readable rfl (reads .dt (by simp))
  refine ⟨_, step_of_completes about executed ⟨about.1.1.1, rfl⟩, ?_, timerDecrement_dt readable⟩
  exact (timerDecrement_frame _ .v (by decide) x).trans (reg_setReg_same _ x _)

theorem step_of_ldDtX (about : AboutToRun s (.ldDtX x)) (reads : CanRead [.v x] s) :
    ∃ u, step s = .next u ∧ u.dt.toNat = (s.reg x).toNat - 1 :=
  ⟨_, step_of_completes about (execLdDtX_of_canRead (s := s.setWaiting none) reads) ⟨about.1.1.1, rfl⟩,
    timerDecrement_dt (readable_of_has rfl)⟩

theorem step_of_ldStX (about : AboutToRun s (.ldStX x)) (reads : CanRead [.v x] s) :
    ∃ u, step s = .next u ∧ u.st.toNat = (s.reg x).toNat - 1 ∧
      u.trace = if s.reg x = 1 then .cue :: s.trace else s.trace := by
  have readable : (((s.setWaiting none).setSt (s.reg x)).advance 2).readable .st = true := readable_of_has rfl
  refine ⟨_, step_of_completes about (execLdStX_of_canRead (s := s.setWaiting none) reads) ⟨about.1.1.1, rfl⟩,
    timerDecrement_st readable, (timerDecrement_trace _).trans ?_⟩
  exact if_congr (and_iff_right readable) rfl rfl

end Moves

/-- Settles O45: each move is one write after its read, and its cycle is the write and the timer decrement. -/
theorem timerMoves : Obligations.TimerMoves := by
  refine fun x s => ⟨⟨decodeWord_encode (i := .ldXDt x) rfl, decodeWord_encode (i := .ldDtX x) rfl,
    decodeWord_encode (i := .ldStX x) rfl⟩, fun reads =>
    ⟨⟨_, execLdXDt_of_canRead reads, setReg_writesReg s x s.dt⟩, fun about => step_of_ldXDt about reads⟩, fun reads =>
    ⟨⟨_, execLdDtX_of_canRead reads, rfl, fun el => ?_, rfl, advance_after (setDt_frame s _) _⟩,
      fun about => step_of_ldDtX about reads,
      ⟨_, execLdStX_of_canRead reads, rfl, fun el => ?_, rfl, advance_after (setSt_frame s _) _⟩,
      fun about => step_of_ldStX about reads⟩⟩
  · simp
  · simp

end Sys2Proof.Machine
end

section
/-! The cycle's outcomes (R210 to R223, 60_exceptions.md): the step by the end of its instruction, the timer decrement, the stop
request, the clean end on `Quit`, and the faults. -/

namespace Sys2Proof.Machine

variable {s t : State}

/-! ### The step by the end of its instruction (R210, R211) -/

/-- A quit, and a wait for the host, end the cycle without the timer decrement. -/
theorem endCycle_of_not_active (inactive : ¬ Active t) : endCycle (.next t) = .next t := if_neg inactive

/-- Settles O10: the step is the end of the cycle after the instruction, which each clause reads at one outcome. -/
theorem stepRunsDecodedInstruction : Obligations.StepRunsDecodedInstruction := by
  intro s i about
  rw [step_of_aboutToRun about]
  refine ⟨fun t executed active => ?_, fun t executed inactive => ?_, fun f executed => ?_, fun r executed => ?_⟩ <;>
    rw [executed]
  · exact endCycle_of_active active
  · exact endCycle_of_not_active inactive
  · rfl
  · rfl

/-! ### The timers at the end of a cycle (R38, R223) -/

theorem delayTick_of_unwritten (unwritten : s.readable .dt = false) : delayTick s = s := if_neg (by simp [unwritten])

theorem soundTick_of_unwritten (unwritten : s.readable .st = false) : soundTick s = s := if_neg (by simp [unwritten])

theorem timerDecrement_dt_of_unwritten (unwritten : s.readable .dt = false) : (timerDecrement s).dt = s.dt := by
  rw [timerDecrement, soundTick_dt, delayTick_of_unwritten unwritten]

theorem timerDecrement_st_of_unwritten (unwritten : s.readable .st = false) : (timerDecrement s).st = s.st := by
  obtain ⟨d, e⟩ := delayTick_writes s
  rw [timerDecrement, e, soundTick_of_unwritten (s := { s with dt := d }) unwritten]

/-- Settles O13: the step ends with the timer decrement, whose values, cue and frame are those of its two ticks. -/
theorem timersDecrementAfterSuccess : Obligations.TimersDecrementAfterSuccess := by
  intro s t i about executed active
  exact ⟨timerDecrement t, step_of_completes about executed active, timerDecrement_dt, timerDecrement_dt_of_unwritten,
    timerDecrement_st, timerDecrement_st_of_unwritten, fun cue => (timerDecrement_trace t).trans (if_pos cue),
    fun silent => (timerDecrement_trace t).trans (if_neg silent), timerDecrement_frame t⟩

/-! ### The stop request (R216, R217) -/

/-- At the top of a cycle the request ends the run, whatever is at PC. -/
theorem step_of_stop_requested (running : s.run = .running) (idle : s.waiting = none) (requested : s.stopReq = true) :
    step s = .next (s.setRun .stoppedClean) := by
  rcases step_cases s with ⟨ended, -⟩ | ⟨-, -, -, e⟩ | ⟨-, ⟨-, none_due⟩ | waits, -⟩ | ⟨-, waits, -⟩
  · exact absurd running ended
  · exact e
  · simp [requested] at none_due
  · simp [idle] at waits
  · simp [idle] at waits

theorem resumeDraw_requestStop (s : State) : resumeDraw s.requestStop = mapNext State.requestStop (resumeDraw s) := by
  unfold resumeDraw renderAnswer
  rw [requestStop_display]
  rcases s.display.ask with _ | ⟨_ | _, _⟩ <;> rfl

/-- Inside a suspended instruction no part of the step reads the latch. -/
theorem step_of_waiting_requestStop (waits : s.waiting ≠ none) :
    step s.requestStop = mapNext State.requestStop (step s) := by
  rcases step_cases s with ⟨ended, e⟩ | ⟨-, idle, -⟩ | ⟨running, ⟨idle, -⟩ | query, e⟩ | ⟨running, drawing, e⟩
  · rw [e]
    exact step_of_ended ended
  · exact absurd idle waits
  · exact absurd idle waits
  · rw [e, step_of_takesInstruction (s := s.requestStop) ⟨running, .inr query⟩]
    exact runInstruction_requestStop (s.setWaiting none)
  · rw [e, step_of_awaiting_render (w := s.requestStop) running drawing, ← endCycle_requestStop,
      ← resumeDraw_requestStop]
    rfl

/-- Settles O16: a request is seen at the top of a cycle alone, where it writes Run and nothing else. -/
theorem stopRequestEndsRunCleanly : Obligations.StopRequestEndsRunCleanly :=
  ⟨fun s running idle requested => ⟨_, step_of_stop_requested running idle requested, rfl, setRun_frame s _⟩,
    fun _ => step_of_waiting_requestStop, fun _ => rfl⟩

/-! ### The clean end on Quit (R218) -/

theorem step_of_key_quit {i : Instr} {rest : Port KeyAnswer} (about : AboutToRun s i) (query : isKeyQuery i = true)
    (quit : s.keypad.ask = some (.quit, rest)) :
    step s = .next (((s.setWaiting none).setKeypad rest).setRun .stoppedClean) := by
  obtain ⟨k, queries⟩ := exec_of_isKeyQuery query
  rw [step_of_aboutToRun about, queries, keyQuery_of_quit (s := s.setWaiting none) quit,
    endCycle_of_not_active fun ⟨running, _⟩ => by simp at running]

/-- Settles O18: the query quits before the rest of its instruction runs, and a stopped core's timers stand still. -/
theorem quitEndsRunCleanly : Obligations.QuitEndsRunCleanly := by
  intro s i rest about query quit
  have frame := sameBut_append (sameBut_append (setWaiting_frame s none) (setKeypad_frame _ rest)) (setRun_frame _ .stoppedClean)
  exact ⟨_, step_of_key_quit about query quit, rfl, rfl, rfl, sameBut_mono frame (by decide)⟩

/-! ### A fault ends the run (R213, R233) -/

theorem setRun_stoppedError_ended (s : State) (f : Fault) : (s.setRun (.stoppedError f)).Ended := by simp [State.Ended]

/-- The tick records the fault, and a stopped core takes no answer. -/
theorem tick_of_fault {f : Fault} (faulted : step s = .fault f) : tick s = s.setRun (.stoppedError f) := by
  rcases tick_cases s with ⟨-, e⟩ | ⟨at_hand, -⟩
  · rw [e, faulted, recordOutcome]
  · rw [faulted, recordOutcome, answerAtHand_of_ended (setRun_stoppedError_ended s f)] at at_hand
    cases at_hand

/-- Settles O15: the tick stops the core, and a stopped core is a fixed point of the tick. -/
theorem faultEndsRun : Obligations.FaultEndsRun := by
  intro s f faulted n
  rw [tick_of_fault faulted, Function.iterate_fixed (tick_of_ended (setRun_stoppedError_ended s f))]
  exact setRun_run s _

/-! ### Which faults an instruction raises (R212)

One rule for each shared operation: what it raises itself, and then what its rest may raise. -/

/-- The outcome is no fault, or one of the kinds with these codes, recorded at this PC. -/
def FaultsWithin (codes : List Nat) (pc : Word) (o : Result) : Prop :=
  ∀ f, o = .fault f → f.code ∈ codes ∧ f.pc = pc

section Rules
variable {codes : List Nat} {pc : Word}

theorem FaultsWithin.next (t : State) : FaultsWithin codes pc (.next t) := fun _ h => nomatch h

theorem FaultsWithin.refused (r : Refusal) : FaultsWithin codes pc (.refused r) := fun _ h => nomatch h

theorem FaultsWithin.fault {f : Fault} (mem : f.code ∈ codes) (here : f.pc = pc) : FaultsWithin codes pc (.fault f) := by
  rintro _ ⟨⟩
  exact ⟨mem, here⟩

theorem FaultsWithin.endCycle {o : Result} (h : FaultsWithin codes pc o) : FaultsWithin codes pc (endCycle o) := by
  cases o with
  | next t =>
    by_cases active : Active t
    · rw [endCycle_of_active active]; exact .next _
    · rw [endCycle_of_not_active active]; exact .next _
  | fault f => exact h
  | refused r => exact .refused r

theorem FaultsWithin.need {el : Element} {k : Result} (mem : 7 ∈ codes) (h : FaultsWithin codes s.pc k) :
    FaultsWithin codes s.pc (need s el k) := by
  rcases need_cases s el k with ⟨-, e⟩ | ⟨-, e⟩ <;> rw [e]
  · exact h
  · exact .fault mem rfl

theorem FaultsWithin.needRegs {rs : List Reg} {k : List Byte → Result} (mem : 7 ∈ codes)
    (h : ∀ bs, FaultsWithin codes s.pc (k bs)) : FaultsWithin codes s.pc (needRegs s rs k) := by
  rcases needRegs_cases s rs k with ⟨-, e⟩ | ⟨_, -, -, e⟩ <;> rw [e]
  · exact h _
  · exact .fault mem rfl

theorem FaultsWithin.memRead {addr n : Nat} {k : List Byte → Result} (mem : 3 ∈ codes)
    (h : ∀ bs, FaultsWithin codes s.pc (k bs)) : FaultsWithin codes s.pc (memRead s addr n k) := by
  rcases memRead_cases s addr n k with ⟨-, e⟩ | ⟨-, -, e⟩ <;> rw [e]
  · exact h _
  · exact .fault mem rfl

theorem FaultsWithin.memWrite {addr : Nat} {bs : List Byte} {k : State → Result} (mem : 3 ∈ codes)
    (h : ∀ t, FaultsWithin codes s.pc (k t)) : FaultsWithin codes s.pc (memWrite s addr bs k) := by
  rcases memWrite_cases s addr bs k with ⟨-, e⟩ | ⟨-, -, e⟩ <;> rw [e]
  · exact h _
  · exact .fault mem rfl

theorem FaultsWithin.pushReturn {k : State → Result} (mem : 4 ∈ codes) (h : ∀ t, FaultsWithin codes s.pc (k t)) :
    FaultsWithin codes s.pc (pushReturn s k) := by
  rcases pushReturn_cases s k with ⟨-, e⟩ | ⟨-, e⟩ | ⟨-, e⟩ <;> rw [e]
  · exact .fault mem rfl
  · exact h _
  · exact .refused _

theorem FaultsWithin.popReturn {k : Word → State → Result} (mem : 5 ∈ codes) (h : ∀ a t, FaultsWithin codes s.pc (k a t)) :
    FaultsWithin codes s.pc (popReturn s k) := by
  rcases popReturn_cases s k with ⟨-, e⟩ | ⟨-, -, e⟩ | ⟨-, e⟩ <;> rw [e]
  · exact .fault mem rfl
  · exact h _ _
  · exact .refused _

theorem FaultsWithin.keyQuery {k : Option KeyCode → State → Result} (mem : 2 ∈ codes)
    (h : ∀ key rest, FaultsWithin codes s.pc (k key (s.setKeypad rest))) : FaultsWithin codes s.pc (keyQuery s k) := by
  rcases keyQuery_cases s k with
    ⟨-, e⟩ | ⟨_, rest, -, e⟩ | ⟨rest, -, -, e⟩ | ⟨_, -, -, e⟩ | ⟨_, -, e⟩ | ⟨_, _, -, e⟩ <;> rw [e]
  · exact .next _
  · exact h _ rest
  · exact h _ rest
  · exact .fault mem rfl
  · exact .next _
  · exact .fault mem rfl

/-- A request raises nothing itself: an `Error` is taken by the next step (log 12). -/
theorem FaultsWithin.render {k : State → Result} (h : ∀ t, FaultsWithin codes pc (k t)) :
    FaultsWithin codes pc (render s k) := by
  rcases render_cases s k with ⟨_, -, e⟩ | ⟨-, e⟩ <;> rw [e]
  · exact h _
  · exact .next _

theorem FaultsWithin.drawByte {k : Byte → State → Result} (h : ∀ r t, FaultsWithin codes pc (k r t)) :
    FaultsWithin codes pc (drawByte s k) := by
  rcases drawByte_cases s k with ⟨_, _, -, e⟩ | ⟨-, e⟩ <;> rw [e] <;> exact h _ _

end Rules

/-! The instructions that read one element or two and then complete. -/

theorem faultsWithin_of_one_read (el : Element) (t : State) : FaultsWithin [7] s.pc (need s el (.next t)) :=
  .need (by simp) (.next t)

theorem faultsWithin_of_two_reads (a b : Element) (t : State) :
    FaultsWithin [7] s.pc (need s a (need s b (.next t))) :=
  .need (by simp) (faultsWithin_of_one_read b t)

theorem skipOnKey_faultsWithin (c : Option KeyCode → Byte → Bool) (x : Reg) (s : State) :
    FaultsWithin [2, 7] s.pc (skipOnKey c x s) :=
  .keyQuery (by simp) fun _ rest => .need (s := s.setKeypad rest) (by simp) (.next _)

theorem storeKey_faultsWithin {codes : List Nat} {pc : Word} (x : Reg) (key : Option KeyCode) (s : State) :
    FaultsWithin codes pc (storeKey x key s) := by
  cases key <;> exact .next _

/-- Every instruction raises only faults whose row of R212 names it, with its own PC. -/
theorem exec_faultsWithin (i : Instr) (s : State) : FaultsWithin (mayRaise i) s.pc (exec i s) :=
  match i with
  | .cls | .jp _ | .ldImm _ _ | .ldI _ => .next _
  | .ret => .popReturn (by simp [mayRaise]) fun _ _ => .next _
  | .call _ => .pushReturn (by simp [mayRaise]) fun _ => .next _
  | .seImm _ _ | .sneImm _ _ | .addImm _ _ | .ldReg _ _ | .shr _ _ | .shl _ _ | .jpV0 _ | .ldXDt _ | .ldDtX _ | .ldStX _
  | .ldFX _ => faultsWithin_of_one_read _ _
  | .seReg _ _ | .sneReg _ _ | .orReg _ _ | .andReg _ _ | .xorReg _ _ | .addReg _ _ | .sub _ _ | .subn _ _ | .addIX _ =>
    faultsWithin_of_two_reads _ _ _
  | .rnd x nn => show FaultsWithin _ _ (execRnd x nn s) from .drawByte fun _ _ => .next _
  | .drw _ _ _ => .need (by simp [mayRaise]) (.need (by simp [mayRaise]) (.need (by simp [mayRaise])
      (.memRead (by simp [mayRaise]) fun _ => .render fun _ => .next _)))
  | .skp x => exec_skp x s ▸ skipOnKey_faultsWithin _ x s
  | .sknp x => exec_sknp x s ▸ skipOnKey_faultsWithin _ x s
  | .ldXK x => .keyQuery (by simp [mayRaise]) fun key _ => storeKey_faultsWithin x key _
  | .ldBX _ => .need (by simp [mayRaise]) (.need (by simp [mayRaise]) (.memWrite (by simp [mayRaise]) fun _ => .next _))
  | .ldMemX _ => .need (by simp [mayRaise]) (.needRegs (by simp [mayRaise]) fun _ =>
      .memWrite (by simp [mayRaise]) fun _ => .next _)
  | .ldXMem _ => .need (by simp [mayRaise]) (.memRead (by simp [mayRaise]) fun _ => .next _)

/-! ### Which faults a step raises (R212, R215, R220) -/

theorem resumeDraw_faultsWithin (s : State) : FaultsWithin [6] s.pc (resumeDraw s) := by
  rcases resumeDraw_cases s with ⟨-, e⟩ | ⟨_, -, e⟩ | ⟨_, _, -, e⟩ <;> rw [e]
  · exact .next _
  · exact .next _
  · exact .fault (by simp [Fault.code]) rfl

/-- The fetch and the decoder raise their faults at PC too (R53, R76). -/
theorem runInstruction_fault_pc {f : Fault} (h : runInstruction exec s = .fault f) : f.pc = s.pc := by
  rcases runInstruction_cases exec s with ⟨-, e⟩ | ⟨-, _, -, ⟨_, -, e⟩ | ⟨i, -, e⟩⟩ <;> rw [e] at h
  · cases h; rfl
  · cases h; rfl
  · exact ((exec_faultsWithin i s).endCycle f h).2

theorem step_fault_pc {f : Fault} (h : step s = .fault f) : f.pc = s.pc := by
  rcases step_cases s with ⟨-, e⟩ | ⟨-, -, -, e⟩ | ⟨-, -, e⟩ | ⟨-, -, e⟩ <;> rw [e] at h
  · cases h
  · cases h
  · exact runInstruction_fault_pc (s := s.setWaiting none) h
  · exact ((resumeDraw_faultsWithin (s.setWaiting none)).endCycle f h).2

/-- A step that takes the answer to a render request fetches and executes nothing. -/
theorem step_of_awaiting_render_fault_code {f : Fault} (waits : s.waiting = some .render) (h : step s = .fault f) :
    f.code = 6 := by
  by_cases running : s.run = .running
  · rw [step_of_awaiting_render running waits] at h
    exact List.mem_singleton.1 ((resumeDraw_faultsWithin (s.setWaiting none)).endCycle f h).1
  · rw [step_of_ended running] at h
    cases h

/-- Settles O21: the instructions by the rules of their operations, the step by its cases. -/
theorem faultRecordsByInstruction : Obligations.FaultRecordsByInstruction :=
  ⟨exec_faultsWithin, fun _ _ => step_fault_pc, fun _ _ => step_of_awaiting_render_fault_code⟩

end Sys2Proof.Machine
end

section
/-! Reset and hazards (70_reset_and_hazards.md): the load (R243), and DT read in the cycle after it is written (R249). -/

namespace Sys2Proof.Machine

variable {s t : State}

/-- Settles O6: the load is a test of the length and one write of the image, and an offset below FONT's end is none of R7's. -/
theorem loadWritesImage : Obligations.LoadWritesImage := by
  refine ⟨fun s image => ⟨load_of_too_long, fun fits => ?_⟩, fun p image below => launch_of_not_wf ?_ image⟩
  · exact ⟨s.withImage image, load_of_fits fits, withImage_imageAt s image, withImage_sameMemoryBut s image,
      setMem_frame s _⟩
  · rintro ⟨offset_ge, -, -⟩
    omega

/-- FX15 writes DT, so the cycle leaves it readable, under UNINIT_POLICY = Fault too (R38). -/
theorem canRead_dt_of_step_ldDtX {x : Reg} (about : AboutToRun s (.ldDtX x)) (reads : CanRead [.v x] s)
    (stepped : step s = .next t) : CanRead [.dt] t := by
  obtain ⟨⟨⟨running, -⟩, -⟩, -⟩ := id about
  have completes := step_of_completes about (execLdDtX_of_canRead (s := s.setWaiting none) reads) ⟨running, rfl⟩
  obtain rfl := Host.Outcome.next.inj (completes.symm.trans stepped)
  refine List.forall_mem_singleton.2 (readable_of_has ?_)
  rw [timerDecrement_frame _ .written (by decide) .dt]
  rfl

/-- Settles O46: FX15's own cycle lowers the DT it wrote, and FX07 reads that before its cycle lowers it again. -/
theorem delayReadAfterWriteIsOneLess : Obligations.DelayReadAfterWriteIsOneLess := by
  intro x y s t writes reads stepped polls
  obtain ⟨t', stepped', written⟩ := step_of_ldDtX writes reads
  obtain rfl := Host.Outcome.next.inj (stepped'.symm.trans stepped)
  obtain ⟨u, next, read, lowered⟩ := step_of_ldXDt polls (canRead_dt_of_step_ldDtX writes reads stepped)
  exact ⟨u, next, by rw [read, written], by rw [lowered, written, Nat.sub_sub]⟩

end Sys2Proof.Machine
end
